-- ==== Sys2Proof/Word.lean ====
section
/-!
DEFINITION. The block's data words: bytes, 24-bit colours, 32-bit frequency words, and the seven light registers.
-/

namespace Sys2Proof

/-- "Bytes are 8 bits" (R8). -/
abbrev Byte := BitVec 8

/-- The content of one light register: 24 bits, red in 23..16, green in 15..8, blue in 7..0 (R20).
Every 24-bit value is legal (R21). -/
abbrev Rgb := BitVec 24

/-- A frequency in hertz, `FREQ_BITS` = 32 bits, unsigned (R25, R77). -/
abbrev Freq := BitVec 32

/-- A light index: `0 .. N_LIGHTS - 1` = `0 .. 6` (R7). No other index names a light register. -/
abbrev LightIndex := Fin 7

/-- The seven light registers in index order (R20), never resized (R21). -/
abbrev LightArray := Vector Rgb 7

end Sys2Proof
end

