-- ==== Sys2Proof/Config.lean ====
section
/-!
DEFINITION. What an implementation fixes (the parameters of R6) and the values the spec leaves free: the sinks' answers,
whether an open succeeds, and the byte order of the frequency word. A free value is a constant without a body.
-/

namespace Sys2Proof

/-- What a sink, or an attempt to open, answers (R142, R171, R231). -/
inductive SinkAnswer where
  | ok
  | fail
deriving DecidableEq, Repr, Inhabited

/-- The two byte orders in which the 4 bytes of a buzzer-port write may be assembled (R53; log 7). -/
inductive ByteOrder where
  /-- the first byte written is bits 7..0 -/
  | little
  /-- the first byte written is bits 31..24 -/
  | big
deriving DecidableEq, Repr, Inhabited

/-- `SEP_MODE` (R6, R106): whether the comma after an entry is searched for or must follow at once. -/
inductive SepMode where
  | scan
  | adjacent
deriving DecidableEq, Repr, Inhabited

/-- The parameters a model takes (R6). Each *param* row has its stated default; `FREQ_BYTE_ORDER`, the one *OPEN* row,
has none. -/
structure Params where
  /-- `CMD_MAX_LEN`, inclusive (R6, R101). -/
  cmdMaxLen : Nat := 70
  /-- `INDEX_MAX_CHARS` (R6, R103). -/
  indexMaxChars : Nat := 1
  /-- `SEP_MODE` (R6, R106). -/
  sepMode : SepMode := .scan
  /-- `APPLY_ATOMIC` (R6, R110, R111). -/
  applyAtomic : Bool := false
  /-- `MAX_PERIOD_NS` (R6, R165): 2^31 - 1. -/
  maxPeriodNs : Nat := 2147483647
  /-- `TIMER_SINK_FALLIBLE` (R6, R171). -/
  timerSinkFallible : Bool := false
  /-- `FREQ_BYTE_ORDER` (R6, R53): OPEN, no default. -/
  freqByteOrder : ByteOrder
deriving DecidableEq, Repr

namespace Config

/-- `N_LIGHTS` (R5, R6): fixed. -/
abbrev nLights : Nat := 7

/-- `START_LEN` (R6). -/
abbrev startLen : Nat := 4

/-- `END_LEN` (R6). -/
abbrev endLen : Nat := 4

/-- `FRAME_LEN` (R6, R76). -/
abbrev frameLen : Nat := 36

/-- `NS_PER_S` (R6). -/
abbrev nsPerS : Nat := 1000000000

/-- `BRIGHTNESS_BYTE` (R75): the top 3 bits set, the low 5 bits at their largest value. -/
def brightnessByte : Byte := (7#3 ++ 31#5 : BitVec 8)

/-- `FREQ_BYTE_ORDER` of the machine `State.reset` describes: OPEN in the spec (R53, D5), so it has no body (log 7). -/
opaque freqByteOrder : ByteOrder

/-- The transport sink's answer to a `Transmit` that `env.transport` does not settle: drawn under no law (R142, D22; log 5). -/
opaque transportAnswer : Nat → SinkAnswer

/-- The timer sink's answer to a call that `env.timer` does not settle, when `TIMER_SINK_FALLIBLE` is set
(R171, D21; log 5). -/
opaque timerAnswer : Nat → SinkAnswer

/-- Whether an open that `env.opens` does not settle succeeds: a draw of the environment (R231; log 5). -/
opaque openAnswer : Nat → SinkAnswer

end Config

end Sys2Proof
end

