-- ==== Sys2Proof/Syntax.lean ====
section
/-!
DEFINITION. The operations of the block (R80), what a caller issues, and the outcomes an operation ends with (R200).
-/

namespace Sys2Proof

/-- The operation map (R80): one constructor per row of the opcode table. -/
inductive Instr where
  /-- `APPLY` (R140): a light-port write of the byte string `text`. -/
  | apply (text : List Byte)
  /-- `ENTRY` (R108): the format-E entry of `text` that starts at the cursor `pos`. -/
  | entry (text : List Byte) (pos : Nat)
  /-- `ENTRY_WRITE` (R110, R111): one decoded entry. -/
  | entryWrite (index : LightIndex) (rgb : Rgb)
  /-- `ENCODE` (R130): the seven light registers to a WireFrame. -/
  | encode
  /-- `TRANSMIT` (R142): one WireFrame to the transport sink. -/
  | transmit (frame : List Byte)
  /-- `SETFREQ_OFF` (R164): a buzzer-port write with `f = 0`. -/
  | setfreqOff
  /-- `SETFREQ_TONE` (R161): a buzzer-port write with `f != 0`. -/
  | setfreqTone (f : Freq)
  /-- `LIGHT_ON` (R190): `lightOn(pins, colors)`; a colour is a byte string of any length (R193). -/
  | lightOn (pins : List Nat) (colors : List (List Byte))
  /-- `LIGHT_OFF` (R194): `lightOff()`. -/
  | lightOff
deriving DecidableEq, Repr

/-- What a caller issues (R38): a write at one of the two ports, or a host pseudo-operation. -/
inductive HostOp where
  /-- a light-port write of any byte string (R54) -/
  | light (text : List Byte)
  /-- a 4-byte buzzer-port write whose bytes are already assembled in `FREQ_BYTE_ORDER` (R53, R77): `setFrequency(f)`,
  and `playTone(f)`, its "direct pass-through" (R83) -/
  | setFrequency (f : Freq)
  /-- a buzzer-port write as its bytes, in the order they are written, of any number (R53, R55) -/
  | buzzerBytes (bytes : List Byte)
  /-- `lightOn(pins, colors)` (R190) -/
  | lightOn (pins : List Nat) (colors : List (List Byte))
  /-- `lightOff()` (R194) -/
  | lightOff
deriving DecidableEq, Repr

/-- The outcomes an operation ends with (R200). None carries a value (R201). -/
inductive OpOutcome where
  | ok
  | missingColon
  | indexTooLong
  | indexOutOfRange
  | invalidHexDigit
  | oversizeError
  | interruptedError
  | transportError
  | busyError
  | periodOverflow
  | deviceUnavailable
  | argError
deriving DecidableEq, Repr

/-- The categories of R200's table. `none` stands for the table's "none". -/
inductive Category where
  | none
  | parseError
  | rangeError
  | interruptedError
  | transportError
  | busyError
  | deviceUnavailable
  | argError
deriving DecidableEq, Repr

/-- The ways the command decoder fails (R102 to R105). -/
inductive DecodeError where
  | missingColon
  | indexTooLong
  | indexOutOfRange
  | invalidHexDigit
deriving DecidableEq, Repr

/-- Why a port write is refused before any operation starts (R55, R84). -/
inductive WriteRefusal where
  /-- a buzzer-port write of other than 4 bytes (R55) -/
  | wordSize
deriving DecidableEq, Repr

end Sys2Proof
end

