-- ==== Sys2Proof/WellFormed.lean ====
section
/-!
DEFINITION. Which operands an operation of the block may carry.
-/

namespace Sys2Proof

/-- The operand checks of the encodings. A light-port write and a host pseudo-operation take any operands: oversize texts
and bad pins end with an outcome, they are not ill-formed (R79, R193). The cursor is an offset of the text (R37), a frame
has 36 bytes (R76), and the tone form has `f != 0` (R82). -/
def Instr.wellFormed : Instr → Bool
  | .apply _ => true
  | .entry text pos => decide (pos ≤ text.length)
  | .entryWrite _ _ => true
  | .encode => true
  | .transmit frame => decide (frame.length = Config.frameLen)
  | .setfreqOff => true
  | .setfreqTone f => decide (f ≠ 0)
  | .lightOn _ _ => true
  | .lightOff => true

end Sys2Proof
end

