-- ==== Sys2Proof/Decode.lean ====
section
/-!
DEFINITION. Reading and writing the block's formats: T (CommandText), E (an entry), F (the frequency word) and
W (the WireFrame). First the decoders, total on any bytes and refusing by name, then the encoders.
-/

namespace Sys2Proof

/-! ### Character codes (R71) -/

/-- `','` = `0x2C` (R71). -/
def comma : Byte := 0x2C

/-- `':'` = `0x3A` (R71). -/
def colon : Byte := 0x3A

/-- The value of a decimal digit `'0'`..`'9'` = `0x30`..`0x39` (R71). -/
def decimalDigit? (b : Byte) : Option Nat :=
  if 0x30 ≤ b.toNat ∧ b.toNat ≤ 0x39 then some (b.toNat - 0x30) else none

/-- The value of a hex digit, upper or lower case (R71, R73, R109). -/
def hexDigit? (b : Byte) : Option (BitVec 4) :=
  if 0x30 ≤ b.toNat ∧ b.toNat ≤ 0x39 then some (BitVec.ofNat 4 (b.toNat - 0x30))
  else if 0x41 ≤ b.toNat ∧ b.toNat ≤ 0x46 then some (BitVec.ofNat 4 (b.toNat - 0x41 + 10))
  else if 0x61 ≤ b.toNat ∧ b.toNat ≤ 0x66 then some (BitVec.ofNat 4 (b.toNat - 0x61 + 10))
  else none

/-! ### Colours (R20, R50, R73) -/

/-- `r = L[i][23:16]` (R20). -/
def red (v : Rgb) : Byte := v.extractLsb' 16 8

/-- `g = L[i][15:8]` (R20). -/
def green (v : Rgb) : Byte := v.extractLsb' 8 8

/-- `b = L[i][7:0]` (R20). -/
def blue (v : Rgb) : Byte := v.extractLsb' 0 8

/-- Six hex digits, the first the most significant nibble (R50, R73). -/
def assembleRgb (h0 h1 h2 h3 h4 h5 : BitVec 4) : Rgb :=
  (h0 ++ h1 ++ h2 ++ h3 ++ h4 ++ h5 : BitVec (4 + 4 + 4 + 4 + 4 + 4))

/-- The colour field (R105): exactly six bytes, all hex digits. Fewer bytes are no colour. -/
def colourField? : List Byte → Option Rgb
  | [b0, b1, b2, b3, b4, b5] =>
    match hexDigit? b0, hexDigit? b1, hexDigit? b2, hexDigit? b3, hexDigit? b4, hexDigit? b5 with
    | some h0, some h1, some h2, some h3, some h4, some h5 => some (assembleRgb h0 h1 h2 h3 h4 h5)
    | _, _, _, _, _, _ => none
  | _ => none

/-! ### The index field (R74, R104) -/

/-- `acc` followed by the decimal digits of the rest. -/
def decimalFrom (acc : Nat) : List Byte → Option Nat
  | [] => some acc
  | b :: rest =>
    match decimalDigit? b with
    | some d => decimalFrom (10 * acc + d) rest
    | none => none

/-- The number a non-empty string of decimal digits spells (R74); none for an empty field or another byte (R104). -/
def decimalValue? : List Byte → Option Nat
  | [] => none
  | b :: rest => decimalFrom 0 (b :: rest)

/-! ### One entry (R102 to R106) -/

/-- The least offset `k >= start` with `text[k] = b` (R102, R106). -/
def findByte (b : Byte) (text : List Byte) (start : Nat) : Option Nat :=
  ((text.drop start).findIdx? (fun x => x == b)).map (fun k => start + k)

/-- A decoded entry: `L[index] <- rgb`, and the offset `e` of the first byte after its colour field (R106). -/
structure Entry where
  index : LightIndex
  rgb : Rgb
  stop : Nat
deriving DecidableEq, Repr

/-- The entry of `text` that starts at `pos`: the colon search (R102), the index length (R103), the index value (R104) and
the colour field (R105), checked in that order (R79). -/
def decodeEntry (p : Params) (text : List Byte) (pos : Nat) : Except DecodeError Entry :=
  match findByte colon text pos with
  | none => .error .missingColon
  | some c =>
    let field := (text.drop pos).take (c - pos)
    if p.indexMaxChars < field.length then .error .indexTooLong
    else
      match decimalValue? field with
      | none => .error .indexOutOfRange
      | some i =>
        if h : i < Config.nLights then
          match colourField? ((text.drop (c + 1)).take 6) with
          | none => .error .invalidHexDigit
          | some rgb => .ok { index := ⟨i, h⟩, rgb := rgb, stop := c + 7 }
        else .error .indexOutOfRange

/-- Where the next entry starts, after an entry whose colour field ends before offset `e`; none when decoding ends with
success (R106). -/
def nextEntry (p : Params) (text : List Byte) (e : Nat) : Option Nat :=
  match p.sepMode with
  | .scan => (findByte comma text e).map (fun m => m + 1)
  | .adjacent => if text[e]? = some comma then some (e + 1) else none

/-! ### A whole CommandText (R108) -/

/-- The decode loop of R108 as a function of the text alone: the writes made, in text order, and the error decoding ends
with, if any. `fuel` bounds the number of entries; each entry moves the cursor forward (R37). -/
def parseLoop (p : Params) (text : List Byte) : Nat → Nat → List (LightIndex × Rgb) × Option DecodeError
  | 0, _ => ([], some .missingColon)
  | fuel + 1, pos =>
    match decodeEntry p text pos with
    | .error e => ([], some e)
    | .ok d =>
      match nextEntry p text d.stop with
      | none => ([(d.index, d.rgb)], none)
      | some q => ((d.index, d.rgb) :: (parseLoop p text fuel q).1, (parseLoop p text fuel q).2)

/-- `decode(text)` (R108): `pos` starts at 0 (R37), and no text holds more entries than bytes. -/
def parseText (p : Params) (text : List Byte) : List (LightIndex × Rgb) × Option DecodeError :=
  parseLoop p text (text.length + 1) 0

/-! ### The frequency word (R53, R55, R77, R82) -/

/-- The 4 bytes of a buzzer-port write, in the order they are written, as one 32-bit number (R53, R77). A write of another
length has no value (R55). -/
def assembleFreq (o : ByteOrder) : List Byte → Option Freq
  | [b0, b1, b2, b3] =>
    match o with
    | .little => some (b3 ++ b2 ++ b1 ++ b0 : BitVec (8 + 8 + 8 + 8))
    | .big => some (b0 ++ b1 ++ b2 ++ b3 : BitVec (8 + 8 + 8 + 8))
  | _ => none

/-- `f = 0` is the off form, every other `f` the tone form (R82, R84). -/
def freqInstr (f : Freq) : Instr :=
  if f = 0 then .setfreqOff else .setfreqTone f

/-! ### The decoder -/

/-- The operation a caller's write or call starts (R80, R84). Every light-port write is one APPLY, every 4-byte buzzer
write one of the two SETFREQ forms; a buzzer write of another length is refused (R55). -/
def decode (p : Params) : HostOp → Except WriteRefusal Instr
  | .light text => .ok (.apply text)
  | .setFrequency f => .ok (freqInstr f)
  | .buzzerBytes bytes =>
    match assembleFreq p.freqByteOrder bytes with
    | some f => .ok (freqInstr f)
    | none => .error .wordSize
  | .lightOn pins colors => .ok (.lightOn pins colors)
  | .lightOff => .ok .lightOff

/-! ### Outcome codes and categories (R200) -/

/-- The outcome a decode error ends the APPLY with (R79, R200). -/
def DecodeError.outcome : DecodeError → OpOutcome
  | .missingColon => .missingColon
  | .indexTooLong => .indexTooLong
  | .indexOutOfRange => .indexOutOfRange
  | .invalidHexDigit => .invalidHexDigit

/-- The numeric codes of R200. -/
def OpOutcome.code : OpOutcome → Nat
  | .ok => 0
  | .missingColon => 1
  | .indexTooLong => 2
  | .indexOutOfRange => 3
  | .invalidHexDigit => 4
  | .oversizeError => 5
  | .interruptedError => 6
  | .transportError => 7
  | .busyError => 8
  | .periodOverflow => 9
  | .deviceUnavailable => 10
  | .argError => 11

/-- The categories of R200. An index out of range is a `RangeError` (conflict C1). -/
def OpOutcome.category : OpOutcome → Category
  | .ok => .none
  | .missingColon => .parseError
  | .indexTooLong => .parseError
  | .indexOutOfRange => .rangeError
  | .invalidHexDigit => .parseError
  | .oversizeError => .none
  | .interruptedError => .interruptedError
  | .transportError => .transportError
  | .busyError => .busyError
  | .periodOverflow => .rangeError
  | .deviceUnavailable => .deviceUnavailable
  | .argError => .argError

/-! ### Encoders -/

/-- The decimal digits of `n`, most significant first. `fuel` bounds their number. -/
def decimalDigits : Nat → Nat → List Nat
  | 0, _ => []
  | fuel + 1, n => if n < 10 then [n] else decimalDigits fuel (n / 10) ++ [n % 10]

/-- `D(p)`: the decimal spelling of `p` with no leading zeros (R193). -/
def decimalText (n : Nat) : List Byte :=
  (decimalDigits (n + 1) n).map (fun d => BitVec.ofNat 8 (0x30 + d))

/-- The upper-case hex digit of a nibble (R71). -/
def hexText (h : BitVec 4) : Byte :=
  if h.toNat < 10 then BitVec.ofNat 8 (0x30 + h.toNat) else BitVec.ofNat 8 (0x41 + (h.toNat - 10))

/-- `R1 R0 G1 G0 B1 B0` of a colour (R72). -/
def colourText (v : Rgb) : List Byte :=
  [hexText (v.extractLsb' 20 4), hexText (v.extractLsb' 16 4), hexText (v.extractLsb' 12 4),
   hexText (v.extractLsb' 8 4), hexText (v.extractLsb' 4 4), hexText (v.extractLsb' 0 4)]

/-- An entry's bytes from its index and colour field: `D(index) ":" colour` (R72, R193). -/
def entryText (index : Nat) (colour : List Byte) : List Byte :=
  decimalText index ++ colon :: colour

/-- Byte strings joined by single commas, with no leading or trailing byte (R193). -/
def joinCommas : List (List Byte) → List Byte
  | [] => []
  | [t] => t
  | t :: u :: rest => t ++ comma :: joinCommas (u :: rest)

/-- The canonical CommandText of a list of entries (R70, R78). -/
def encodeText (entries : List (LightIndex × Rgb)) : List Byte :=
  joinCommas (entries.map (fun e => entryText e.1.val (colourText e.2)))

/-- The 4 bytes of a buzzer-port write of `f` in a byte order (R53, R55). -/
def freqBytes (o : ByteOrder) (f : Freq) : List Byte :=
  match o with
  | .little => [f.extractLsb' 0 8, f.extractLsb' 8 8, f.extractLsb' 16 8, f.extractLsb' 24 8]
  | .big => [f.extractLsb' 24 8, f.extractLsb' 16 8, f.extractLsb' 8 8, f.extractLsb' 0 8]

/-- The write or call that starts an operation. The internal operations have no port encoding (R80, R110, R130, R142):
an ENTRY is bytes of an APPLY's text, and `encodeText` writes those. -/
def encode (p : Params) : Instr → Option HostOp
  | .apply text => some (.light text)
  | .entry _ _ => none
  | .entryWrite _ _ => none
  | .encode => none
  | .transmit _ => none
  | .setfreqOff => some (.buzzerBytes (freqBytes p.freqByteOrder 0))
  | .setfreqTone f => some (.buzzerBytes (freqBytes p.freqByteOrder f))
  | .lightOn pins colors => some (.lightOn pins colors)
  | .lightOff => some .lightOff

/-- One light's 4-byte group: the brightness byte, then blue, green, red (R51, R76). -/
def lightGroup (v : Rgb) : List Byte :=
  [Config.brightnessByte, blue v, green v, red v]

/-- `encode(L)` (R130): format W, the 36 bytes of R76. -/
def encodeFrame (lights : LightArray) : List Byte :=
  List.replicate Config.startLen 0x00 ++ lights.toList.flatMap lightGroup ++ List.replicate Config.endLen 0xFF

/-! ### Words as the opcode table numbers them -/

/-- The `n` bytes of `w`, the least significant first. -/
def wordBytes : Nat → Nat → List Byte
  | 0, _ => []
  | n + 1, w => BitVec.ofNat 8 w :: wordBytes n (w / 256)

/-- The caller's write that carries a table word. The table numbers the bits of one format only, the 32-bit word of format F
(R77), which the model receives assembled (R53). DESIGN CHOICE (log 20), since the spec says nothing of other widths: a word
of another number of whole bytes is a buzzer-port write of these bytes, and a word of no whole number of bytes is the
buzzer-port write of no byte. R55 refuses both, for neither has 4 bytes. -/
def tableWrite (nbits w : Nat) : HostOp :=
  if nbits = 32 then .setFrequency (BitVec.ofNat 32 w)
  else if nbits % 8 = 0 then .buzzerBytes (wordBytes (nbits / 8) w)
  else .buzzerBytes []

/-- The instruction the decoder reads from a table word; none where it refuses. `decode` asks for parameters, and
`FREQ_BYTE_ORDER` is OPEN (R6, D5): the order `big` stands here by DESIGN CHOICE (log 7, 20). No answer depends on it
(`decode_tableWrite_order`): a 32-bit word comes assembled, and every other width is refused in either order. -/
def decodeTableWord (nbits w : Nat) : Option Instr :=
  match decode { freqByteOrder := .big } (tableWrite nbits w) with
  | .ok i => some i
  | .error _ => none

end Sys2Proof
end

