-- ==== Sys2Proof/Machine/State.lean ====
section
/-!
DEFINITION. Everything the spec gives the machine, as plain data, and the machine right after open (R230).
-/

namespace Sys2Proof.Machine

/-- A unit's lock (R31). A caller is named by a number: `Callers` has no fixed size (R215), so every natural number may be one
(log 3). -/
inductive Lock where
  | free
  | held (c : Nat)
deriving DecidableEq, Repr

/-- `phase[c]` (R32). The text inside `ledWaiting` and `ledHolding` is the CommandText buffer of that apply (R35, R60). -/
inductive Phase where
  | idle
  | ledWaiting (text : List Byte)
  | ledHolding (text : List Byte)
  | buzHolding (f : Freq)
deriving DecidableEq, Repr

/-- One caller: its phase (R32), the operations it has still to issue, in program order (R38, R64), and the outcomes
returned to it, oldest first (R209; log 4). -/
structure Caller where
  phase : Phase := .idle
  ops : List HostOp := []
  results : List OpOutcome := []
deriving DecidableEq, Repr

/-- ToneState (R25). -/
structure ToneState where
  enabled : Bool
  frequencyHz : Freq
deriving DecidableEq, Repr

/-- A call of the timer sink (R39, R213). -/
inductive TimerCall where
  | configure (duty period : Nat)
  | enable
  | disable
deriving DecidableEq, Repr

/-- One record of `xmit_log`: a frame offered to the transport sink, and its answer (R39, R142). -/
structure XmitRecord where
  frame : List Byte
  answer : SinkAnswer
deriving DecidableEq, Repr

/-- How the decode step of an apply body stands (R141 `r`). -/
inductive DecodeStatus where
  | pending
  | succeeded
  | failed (e : DecodeError)
deriving DecidableEq, Repr

/-- What exists only inside one LED_BODY: the parse cursor (R37), the staging list (R111), the WireFrame (R36), the
transport's answer and the decode's result (R141). Its value between bodies is the default (log 15). -/
structure Scratch where
  cursor : Nat := 0
  decode : DecodeStatus := .pending
  staged : List (LightIndex × Rgb) := []
  frame : Option (List Byte) := none
  answer : Option SinkAnswer := none
deriving DecidableEq, Repr

/-- The LED frame unit: `led_open` (R34), `L[0..6]` (R20), `led_lock` (R31), the transients of a body, and `xmit_log`
(R39). -/
structure LedUnit where
  isOpen : Bool
  lights : LightArray
  lock : Lock
  scratch : Scratch
  xmitLog : List XmitRecord
deriving DecidableEq, Repr

/-- The buzzer converter unit: `buz_open` (R34), ToneState (R25), `buz_lock` (R31) and `timer_log` (R39). -/
structure BuzUnit where
  isOpen : Bool
  tone : ToneState
  lock : Lock
  timerLog : List TimerCall
deriving DecidableEq, Repr

/-- The model-level marks of R210. -/
structure Marks where
  timerSinkFault : Bool := false
  refusedWordSize : Bool := false
  refusedCloseBusy : Bool := false
deriving DecidableEq, Repr

/-- What the environment answers: the answers already settled, first one next, and how many answers beyond them have been
drawn as free values (R142, R171, R231; log 5). -/
structure Env where
  transport : List SinkAnswer := []
  timer : List SinkAnswer := []
  opens : List SinkAnswer := []
  drawn : Nat := 0
deriving DecidableEq, Repr

/-- What the scheduler, the environment or the host program does next (R206, R215, R230, R232; log 1). -/
inductive Event where
  /-- caller `c` takes its enabled step, if it has one -/
  | turn (c : Nat)
  /-- an external interruption is delivered to caller `c` -/
  | interrupt (c : Nat)
  /-- the host opens the block -/
  | openBlock
  /-- the host closes the block -/
  | closeBlock
deriving DecidableEq, Repr

/-- The machine. `callers` lists the callers that are not at rest, sorted by number (log 3). `cur` is the caller whose step
is being taken, the operand `c` of R140, R161 and R164 (log 3). `sched` is the order of steps (log 1). -/
structure State where
  params : Params
  led : LedUnit
  buz : BuzUnit
  callers : List (Nat × Caller)
  marks : Marks
  cur : Nat
  sched : List Event
  env : Env
deriving DecidableEq, Repr

/-- Why the machine can stop with a fault. -/
inductive Fault where
  /-- Raised by `step` on a state that carries the mark `TimerSinkFault` (R171, R210): no source says what the block does
  after its timer sink failed. Safe: the model stops where the hardware may go on (log 9). -/
  | timerSinkFault
deriving DecidableEq, Repr

/-- Why the machine can refuse a step. -/
inductive Refusal where
  /-- An instruction without a meaning yet, refused by its mnemonic. No arm raises it. Safe. -/
  | notModelled (mnemonic : String)
  /-- Raised by the open event on a block that is open, a case the spec does not describe. Safe: the model stops where the
  hardware may go on (log 12). -/
  | openWhileOpen
deriving DecidableEq, Repr

/-- The LED frame unit as open creates it (R230): all lights black (R24), lock free, log empty. -/
def LedUnit.opened : LedUnit where
  isOpen := true
  lights := Vector.replicate 7 0x000000
  lock := .free
  scratch := {}
  xmitLog := []

/-- The buzzer converter unit as open creates it (R30, R230). -/
def BuzUnit.opened : BuzUnit where
  isOpen := true
  tone := { enabled := false, frequencyHz := 0 }
  lock := .free
  timerLog := []

/-- The machine right after open, this hardware's reset (R230): the parameters at their defaults (R6), no operation issued
(log 8) and no answer settled (log 5). -/
def State.reset : State where
  params := { freqByteOrder := Config.freqByteOrder }
  led := .opened
  buz := .opened
  callers := []
  marks := {}
  cur := 0
  sched := []
  env := {}

end Sys2Proof.Machine
end

