-- ==== Sys2Proof/Machine/Flags.lean ====
section
/-!
DEFINITION. ToneState, the block's only status flag and control register (R25 to R28), and the conversion from a frequency
to the timer's period and duty (R163).
-/

namespace Sys2Proof.Machine

/-- `period_ns = NS_PER_S / f`, rounded down (R9, R163). Used for `f != 0` only. -/
def periodNs (f : Freq) : Nat := Config.nsPerS / f.toNat

/-- `duty_ns = period_ns / 2`, rounded down (R163, D34). -/
def dutyNs (f : Freq) : Nat := periodNs f / 2

/-- ToneState after a successful tone (R166): enabled, with the frequency stored. -/
def toneOn (f : Freq) : ToneState := { enabled := true, frequencyHz := f }

/-- ToneState after a successful off (R164): `enabled` cleared, `frequency_hz` unchanged (R27). -/
def toneOff (t : ToneState) : ToneState := { t with enabled := false }

/-- The period the ToneState stands for while it is enabled (R28). -/
def ToneState.period (t : ToneState) : Nat := periodNs t.frequencyHz

/-- The duty the ToneState stands for while it is enabled (R28). -/
def ToneState.duty (t : ToneState) : Nat := dutyNs t.frequencyHz

end Sys2Proof.Machine
end

