-- ==== Sys2Proof/Machine/Operands.lean ====
section
/-!
DEFINITION. The operands of the host pseudo-operations: colour selection, the argument checks and the text they build
(R191 to R194).
-/

namespace Sys2Proof.Machine

/-- The colour of pin position `j` of `n` pins (R192): per index if there is one colour or one for each pin, else the first
colour for every pin. -/
def colourAt (colors : List (List Byte)) (n j : Nat) : List Byte :=
  if colors.length = 1 ∨ colors.length = n then colors.getD (min j (colors.length - 1)) []
  else colors.getD 0 []

/-- The entries of the built text, in list order, from pin position `j` on (R193). -/
def buildEntries (colors : List (List Byte)) (n : Nat) : List Nat → Nat → List (List Byte)
  | [], _ => []
  | pin :: rest, j => entryText pin (colourAt colors n j) :: buildEntries colors n rest (j + 1)

/-- `build(pins, colors)` (R193): neither pins nor colours are checked. -/
def buildText (pins : List Nat) (colors : List (List Byte)) : List Byte :=
  joinCommas (buildEntries colors pins.length pins 0)

/-- The checks of R191 fail: the result is `ArgError` and no APPLY is issued. -/
def badLightArgs (p : Params) (pins : List Nat) (colors : List (List Byte)) : Bool :=
  pins.isEmpty || decide (Config.nLights < pins.length) || colors.isEmpty
    || decide (p.cmdMaxLen < (buildText pins colors).length)

/-- The pins of `lightOff()` (R194). -/
def allPins : List Nat := [0, 1, 2, 3, 4, 5, 6]

/-- The colours of `lightOff()`: the one string `"000000"` (R194, R71). -/
def blackColours : List (List Byte) := [[0x30, 0x30, 0x30, 0x30, 0x30, 0x30]]

end Sys2Proof.Machine
end

