-- ==== Sys2Proof/Machine/Ops.lean ====
section
/-!
DEFINITION. The named operations over the machine's state: the caller table, the light registers, ending an operation with
an outcome (the block's one form of return, R209), the sinks, the locks, and open and close.
-/

namespace Sys2Proof.Machine

/-! ### The caller table (log 3) -/

/-- Caller `c` in the table; a caller that is not listed is idle with nothing to issue. -/
def readCaller : List (Nat × Caller) → Nat → Caller
  | [], _ => {}
  | e :: rest, c => if e.1 = c then e.2 else readCaller rest c

/-- Puts caller `c` at its place by number. -/
def insertCaller (c : Nat) (v : Caller) : List (Nat × Caller) → List (Nat × Caller)
  | [] => [(c, v)]
  | e :: rest =>
    if c < e.1 then (c, v) :: e :: rest
    else if e.1 = c then (c, v) :: rest
    else e :: insertCaller c v rest

/-- Writes caller `c`. A caller at rest is not listed, so equal tables are equal lists. -/
def writeCaller (c : Nat) (v : Caller) (m : List (Nat × Caller)) : List (Nat × Caller) :=
  if v = {} then m.filter (fun e => e.1 ≠ c) else insertCaller c v m

/-- The canonical form: strictly rising numbers, and no entry that says what an unlisted caller is. -/
abbrev CallersWf (m : List (Nat × Caller)) : Prop :=
  m.Pairwise (fun a b => a.1 < b.1) ∧ ∀ e ∈ m, e.2 ≠ {}

/-- A number above every listed caller's: a caller at rest. -/
def freshCaller (m : List (Nat × Caller)) : Nat :=
  m.foldr (fun e n => max n (e.1 + 1)) 0

/-- Caller `c` of the machine. -/
def State.caller (s : State) (c : Nat) : Caller := readCaller s.callers c

/-- `phase[c]` (R32). -/
def State.phase (s : State) (c : Nat) : Phase := (s.caller c).phase

def State.setCaller (s : State) (c : Nat) (v : Caller) : State :=
  { s with callers := writeCaller c v s.callers }

/-- `phase[c] <- p`. -/
def State.setPhase (s : State) (c : Nat) (p : Phase) : State :=
  s.setCaller c { s.caller c with phase := p }

/-- Whether caller `c` is inside an apply body: it holds `led_lock` and its body has not ended (R32). -/
def Phase.isLedHolding : Phase → Bool
  | .ledHolding _ => true
  | _ => false

/-! ### Ending an operation (R202, R209) -/

/-- The operation of caller `c` ends with outcome `e`: the outcome returns to the caller, whose phase becomes `Idle`. -/
def State.endOp (s : State) (c : Nat) (e : OpOutcome) : State :=
  s.setCaller c { s.caller c with phase := .idle, results := (s.caller c).results ++ [e] }

/-! ### Locks (R59, R61) -/

def State.setLedLock (s : State) (l : Lock) : State := { s with led := { s.led with lock := l } }

def State.setBuzLock (s : State) (l : Lock) : State := { s with buz := { s.buz with lock := l } }

/-! ### Light registers and the transients of a body -/

/-- `L[i] <- rgb` (R10, R56). -/
def State.setLight (s : State) (i : LightIndex) (rgb : Rgb) : State :=
  { s with led := { s.led with lights := s.led.lights.set i rgb } }

def State.setScratch (s : State) (x : Scratch) : State := { s with led := { s.led with scratch := x } }

/-- Writes to the light registers, in list order (R111, R112). -/
def writeLights (lights : LightArray) : List (LightIndex × Rgb) → LightArray
  | [] => lights
  | w :: rest => writeLights (lights.set w.1 w.2) rest

/-- The staged writes are performed in list order, and the staging list is then empty (R111). -/
def State.commitStaged (s : State) : State :=
  { s with led := { s.led with
      lights := writeLights s.led.lights s.led.scratch.staged
      scratch := { s.led.scratch with staged := [] } } }

/-! ### The environment's answers (log 5) -/

/-- The transport sink's next answer (R142): the first settled one, else a free value. -/
def State.transportAnswer (s : State) : SinkAnswer :=
  match s.env.transport with
  | a :: _ => a
  | [] => Config.transportAnswer s.env.drawn

/-- The environment after the transport sink has answered. -/
def State.afterTransport (s : State) : Env :=
  match s.env.transport with
  | _ :: rest => { s.env with transport := rest }
  | [] => { s.env with drawn := s.env.drawn + 1 }

/-- The timer sink's next answer (R171): `ok` unless `TIMER_SINK_FALLIBLE`, then the first settled one, else a free
value. -/
def State.timerAnswer (s : State) : SinkAnswer :=
  if s.params.timerSinkFallible then
    match s.env.timer with
    | a :: _ => a
    | [] => Config.timerAnswer s.env.drawn
  else .ok

/-- The environment after the timer sink has answered; an infallible sink draws nothing. -/
def State.afterTimer (s : State) : Env :=
  if s.params.timerSinkFallible then
    match s.env.timer with
    | _ :: rest => { s.env with timer := rest }
    | [] => { s.env with drawn := s.env.drawn + 1 }
  else s.env

/-- Whether the next open succeeds (R231): the first settled answer, else a free value. -/
def State.openAnswer (s : State) : SinkAnswer :=
  match s.env.opens with
  | a :: _ => a
  | [] => Config.openAnswer s.env.drawn

/-- The environment after an open has been tried. -/
def State.afterOpen (s : State) : Env :=
  match s.env.opens with
  | _ :: rest => { s.env with opens := rest }
  | [] => { s.env with drawn := s.env.drawn + 1 }

/-! ### The sinks (R39, R142, R212, R213) -/

/-- `r <- Transmit(frame); xmit_log <- xmit_log ++ [(frame, r)]` (R142); `r` is kept for the rest of the body. -/
def State.transmitFrame (s : State) (frame : List Byte) : State :=
  { s with
    led := { s.led with
      xmitLog := s.led.xmitLog ++ [{ frame := frame, answer := s.transportAnswer }]
      scratch := { s.led.scratch with answer := some s.transportAnswer } }
    env := s.afterTransport }

/-- One timer-sink call: its record is appended whatever the answer (R39, R167), and an answer `fail` sets the mark
`TimerSinkFault` (R171, R210). -/
def State.timerCall (s : State) (call : TimerCall) : State :=
  { s with
    buz := { s.buz with timerLog := s.buz.timerLog ++ [call] }
    marks := { s.marks with
      timerSinkFault := s.marks.timerSinkFault || decide (s.timerAnswer = .fail) }
    env := s.afterTimer }

def State.setTone (s : State) (t : ToneState) : State := { s with buz := { s.buz with tone := t } }

/-! ### Refused port writes (R55, R210) -/

/-- A buzzer-port write of other than 4 bytes: no operation starts, and the refusal is recorded. -/
def State.refuseWordSize (s : State) : State :=
  { s with marks := { s.marks with refusedWordSize := true } }

/-! ### Open and close (R230 to R233) -/

/-- Every caller's phase set to `Idle`; a caller that is then at rest leaves the table. -/
def idleAll (m : List (Nat × Caller)) : List (Nat × Caller) :=
  (m.map (fun e => (e.1, { e.2 with phase := .idle }))).filter (fun e => e.2 ≠ {})

/-- Whether every caller is `Idle`. -/
def State.allIdle (s : State) : Bool := s.callers.all (fun e => decide (e.2.phase = .idle))

/-- The unit without its state (R34): its flag cleared, the registers and the lock discarded (log 14). `xmit_log` is the
record of what the sink saw, not the unit's state (R39). -/
def LedUnit.closed (u : LedUnit) : LedUnit := { LedUnit.opened with isOpen := false, xmitLog := u.xmitLog }

/-- The buzzer unit without its state (R34; log 14). -/
def BuzUnit.closed (u : BuzUnit) : BuzUnit := { BuzUnit.opened with isOpen := false, timerLog := u.timerLog }

/-- `led_open <- 0`, `buz_open <- 0`, and the units' state is discarded (R232). -/
def State.closeUnits (s : State) : State := { s with led := s.led.closed, buz := s.buz.closed }

/-- Both units as open creates them, every phase `Idle`, the logs empty and no mark set (R230, R233; log 13). -/
def State.openUnits (s : State) : State :=
  { s with led := .opened, buz := .opened, callers := idleAll s.callers, marks := {} }

/-- Close (R232): refused with a mark while a caller's phase is not `Idle`; idempotent. -/
def closeBlock (s : State) : State :=
  if s.allIdle then s.closeUnits
  else { s with marks := { s.marks with refusedCloseBusy := true } }

/-- Open (R230, R231) on a block that is not open: all or nothing, as the environment answers. The spec gives no meaning to
opening a block that is open (log 12). -/
def openBlock (s : State) : Host.Outcome State Fault Refusal :=
  if s.led.isOpen || s.buz.isOpen then .refused .openWhileOpen
  else
    match s.openAnswer with
    | .ok => .next { s with env := s.afterOpen }.openUnits
    | .fail => .next { s with env := s.afterOpen }.closeUnits

end Sys2Proof.Machine
end

