-- ==== Sys2Proof/Machine/Buzzer.lean ====
section
/-!
DEFINITION. The buzzer converter unit: the two atomic steps of setFrequency (R160) and the meanings of its two forms.
-/

namespace Sys2Proof.Machine

/-- BUZ_TRY (R162): the open check, then the try-only lock (R59, R205). -/
def buzTry (c : Nat) (f : Freq) (s : State) : State :=
  if s.buz.isOpen = false then s.endOp c .deviceUnavailable
  else
    match s.buz.lock with
    | .free => (s.setBuzLock (.held c)).setPhase c (.buzHolding f)
    | .held _ => s.endOp c .busyError

/-- Every exit of BUZ_BODY (R61, R167): the lock is released and the outcome returns. -/
def finishSetFreq (c : Nat) (e : OpOutcome) (s : State) : State :=
  (s.setBuzLock .free).endOp c e

/-- The `f = 0` branch of BUZ_BODY (R164, R167). A failed call leaves the mark, and nothing after it happens (R171;
log 10). -/
def buzOff (c : Nat) (s : State) : State :=
  if s.timerAnswer = .fail then s.timerCall .disable
  else
    let t := s.timerCall .disable
    finishSetFreq c .ok (t.setTone (toneOff t.buz.tone))

/-- `TimerEnable()` and what follows it (R166, R167). -/
def buzEnable (c : Nat) (f : Freq) (s : State) : State :=
  if s.timerAnswer = .fail then s.timerCall .enable
  else finishSetFreq c .ok ((s.timerCall .enable).setTone (toneOn f))

/-- The `f != 0` branch of BUZ_BODY (R165 to R167): the range check comes before any timer-sink call. -/
def buzTone (c : Nat) (f : Freq) (s : State) : State :=
  if s.params.maxPeriodNs < periodNs f then finishSetFreq c .periodOverflow s
  else if s.timerAnswer = .fail then s.timerCall (.configure (dutyNs f) (periodNs f))
  else buzEnable c f (s.timerCall (.configure (dutyNs f) (periodNs f)))

/-- BUZ_BODY (R167), one atomic step. -/
def buzBody (c : Nat) (f : Freq) (s : State) : State :=
  if f = 0 then buzOff c s else buzTone c f s

/-- The next atomic step of caller `c`'s setFrequency of `f` (R160). A caller with another operation in progress issues
none (R32; log 2, 17). -/
def setFreqStep (c : Nat) (f : Freq) (s : State) : State :=
  match s.phase c with
  | .idle => buzTry c f s
  | .buzHolding g => if g = f then buzBody c g s else s
  | _ => s

/-- `SETFREQ_OFF` (R164). -/
def execSetfreqOff (s : State) : Host.Outcome State Fault Refusal :=
  .next (setFreqStep s.cur 0 s)

/-- `SETFREQ_TONE` (R161). -/
def execSetfreqTone (f : Freq) (s : State) : Host.Outcome State Fault Refusal :=
  .next (setFreqStep s.cur f s)

end Sys2Proof.Machine
end

