-- ==== Sys2Proof/Machine/Led.lean ====
section
/-!
DEFINITION. The LED frame unit: the atomic steps of APPLY (R140), the internal operations ENTRY, ENTRY_WRITE, ENCODE and
TRANSMIT that its body is made of, and the meanings of these five instructions.
-/

namespace Sys2Proof.Machine

/-! ### The internal operations -/

/-- ENTRY_WRITE: at once (R110), or onto the staging list when `APPLY_ATOMIC` is set (R111). -/
def entryWriteOp (i : LightIndex) (rgb : Rgb) (s : State) : State :=
  if s.params.applyAtomic then
    s.setScratch { s.led.scratch with staged := s.led.scratch.staged ++ [(i, rgb)] }
  else s.setLight i rgb

/-- Decoding has ended with an error: the staging list is dropped (R111). -/
def decodeFails (e : DecodeError) (s : State) : State :=
  s.setScratch { s.led.scratch with decode := .failed e, staged := [] }

/-- Decoding goes on at offset `q` (R106). -/
def decodeGoesOn (q : Nat) (s : State) : State :=
  s.setScratch { s.led.scratch with decode := .pending, cursor := q }

/-- Decoding has ended with success: the staged writes are performed before ENCODE (R111). -/
def decodeSucceeds (s : State) : State :=
  (s.setScratch { s.led.scratch with decode := .succeeded }).commitStaged

/-- ENTRY (R108): one turn of the decode loop, at cursor `pos`. -/
def entryOp (text : List Byte) (pos : Nat) (s : State) : State :=
  match decodeEntry s.params text pos with
  | .error e => decodeFails e s
  | .ok d =>
    match nextEntry s.params text d.stop with
    | some q => decodeGoesOn q (entryWriteOp d.index d.rgb s)
    | none => decodeSucceeds (entryWriteOp d.index d.rgb s)

/-- ENCODE (R130): reads all seven light registers at once (R56). -/
def encodeOp (s : State) : State :=
  s.setScratch { s.led.scratch with frame := some (encodeFrame s.led.lights) }

/-! ### The atomic steps of APPLY -/

/-- LED_ACCEPT (R146): the open check, then the length check (R101, R204), then the text is captured (R60). -/
def ledAccept (c : Nat) (text : List Byte) (s : State) : State :=
  if s.led.isOpen = false then s.endOp c .deviceUnavailable
  else if s.params.cmdMaxLen < text.length then s.endOp c .oversizeError
  else s.setPhase c (.ledWaiting text)

/-- LED_ACQUIRE (R147): while another caller holds the lock there is no such step, and the caller stays waiting. -/
def ledAcquire (c : Nat) (buf : List Byte) (s : State) : State :=
  match s.led.lock with
  | .free => (s.setLedLock (.held c)).setPhase c (.ledHolding buf)
  | .held _ => s

/-- LED_INTERRUPT (R145, R206): ends a wait, whether the lock is free or held; at any other time it has no effect. -/
def ledInterrupt (c : Nat) (s : State) : State :=
  match s.phase c with
  | .ledWaiting _ => s.endOp c .interruptedError
  | _ => s

/-- The decode loop of LED_BODY (R108, R141): ENTRY at the cursor until decoding has ended. -/
def decodeLoop (buf : List Byte) : Nat → State → State
  | 0, s => decodeFails .missingColon s
  | fuel + 1, s =>
    let t := entryOp buf s.led.scratch.cursor s
    match t.led.scratch.decode with
    | .pending => decodeLoop buf fuel t
    | _ => t

/-- Every exit of LED_BODY (R61, R141): the lock is released, the transients are gone, the outcome returns. -/
def finishApply (c : Nat) (e : OpOutcome) (s : State) : State :=
  ((s.setScratch {}).setLedLock .free).endOp c e

/-- The outcome of a body whose frame was sent (R141, R143). -/
def transmitOutcome : Option SinkAnswer → OpOutcome
  | some .fail => .transportError
  | _ => .ok

/-- ENCODE, then TRANSMIT of that frame, then the exit (R141, R148). -/
def sendFrame (c : Nat) (s : State) : State :=
  let t := encodeOp s
  let u := t.transmitFrame (t.led.scratch.frame.getD [])
  finishApply c (transmitOutcome u.led.scratch.answer) u

/-- LED_BODY (R141), one atomic step: decode, and on success encode and transmit; a decode error sends nothing (R144). -/
def ledBody (c : Nat) (buf : List Byte) (s : State) : State :=
  let t := decodeLoop buf (buf.length + 1) (s.setScratch {})
  match t.led.scratch.decode with
  | .failed e => finishApply c e.outcome t
  | _ => sendFrame c t

/-- The next atomic step of caller `c`'s APPLY (R140). After LED_ACCEPT only the captured text counts (R60; log 16). A
caller with a setFrequency in progress issues no APPLY (R32; log 2). -/
def applyStep (c : Nat) (text : List Byte) (s : State) : State :=
  match s.phase c with
  | .idle => ledAccept c text s
  | .ledWaiting buf => ledAcquire c buf s
  | .ledHolding buf => ledBody c buf s
  | .buzHolding _ => s

/-- An internal operation runs only while the caller holds `led_lock` (R22, R80, R108); else there is no step (log 15). -/
def insideBody (f : State → State) (s : State) : State :=
  if (s.phase s.cur).isLedHolding then f s else s

/-! ### The meanings -/

/-- `APPLY` (R140). -/
def execApply (text : List Byte) (s : State) : Host.Outcome State Fault Refusal :=
  .next (applyStep s.cur text s)

/-- `ENTRY` (R108). -/
def execEntry (text : List Byte) (pos : Nat) (s : State) : Host.Outcome State Fault Refusal :=
  .next (insideBody (entryOp text pos) s)

/-- `ENTRY_WRITE` (R110, R111). -/
def execEntryWrite (index : LightIndex) (rgb : Rgb) (s : State) : Host.Outcome State Fault Refusal :=
  .next (insideBody (entryWriteOp index rgb) s)

/-- `ENCODE` (R130). -/
def execEncode (s : State) : Host.Outcome State Fault Refusal :=
  .next (insideBody encodeOp s)

/-- `TRANSMIT` (R142). A frame has 36 bytes (R76, R212); other operands are ill-formed and nothing is sent (log 15). -/
def execTransmit (frame : List Byte) (s : State) : Host.Outcome State Fault Refusal :=
  .next (insideBody (fun t => if frame.length = Config.frameLen then t.transmitFrame frame else t) s)

end Sys2Proof.Machine
end

