-- ==== Sys2Proof/Machine/Pseudo.lean ====
section
/-!
DEFINITION. The host pseudo-operations `lightOn` and `lightOff` (R190 to R196): each builds one CommandText and issues one
APPLY.
-/

namespace Sys2Proof.Machine

/-- `lightOn(pins, colors)` by caller `c`: `ArgError` without an APPLY if a check of R191 fails, else the APPLY of the built
text (R190), whose later steps are that APPLY's own (R195). -/
def lightOnStep (c : Nat) (pins : List Nat) (colors : List (List Byte)) (s : State) : State :=
  if s.phase c = .idle ∧ badLightArgs s.params pins colors = true then s.endOp c .argError
  else applyStep c (buildText pins colors) s

/-- `LIGHT_ON` (R190). -/
def execLightOn (pins : List Nat) (colors : List (List Byte)) (s : State) : Host.Outcome State Fault Refusal :=
  .next (lightOnStep s.cur pins colors s)

/-- `LIGHT_OFF` (R194): `lightOn([0,1,2,3,4,5,6], ["000000"])`. -/
def execLightOff (s : State) : Host.Outcome State Fault Refusal :=
  .next (lightOnStep s.cur allPins blackColours s)

end Sys2Proof.Machine
end

