-- ==== Sys2Proof/Machine/Dispatch.lean ====
section
/-!
DEFINITION. One arm per operation of the block (R80).
-/

namespace Sys2Proof.Machine

/-- The next atomic step of instruction `i`, taken by the caller `s.cur`. -/
def exec (i : Instr) (s : State) : Host.Outcome State Fault Refusal :=
  match i with
  | .apply text => Sys2Proof.Machine.execApply text s
  | .entry text pos => Sys2Proof.Machine.execEntry text pos s
  | .entryWrite index rgb => Sys2Proof.Machine.execEntryWrite index rgb s
  | .encode => Sys2Proof.Machine.execEncode s
  | .transmit frame => Sys2Proof.Machine.execTransmit frame s
  | .setfreqOff => Sys2Proof.Machine.execSetfreqOff s
  | .setfreqTone f => Sys2Proof.Machine.execSetfreqTone f s
  | .lightOn pins colors => Sys2Proof.Machine.execLightOn pins colors s
  | .lightOff => Sys2Proof.Machine.execLightOff s

end Sys2Proof.Machine
end

