-- ==== Sys2Proof/Machine/Turn.lean ====
section
/-!
DEFINITION. What an event makes the machine do (R206, R215): a caller's turn runs the operation it has in progress, or
issues its next one.
-/

namespace Sys2Proof.Machine

/-- Caller `c`, which is idle, issues its next operation (R38): the write is decoded and its first step runs. A buzzer write
of the wrong length starts nothing (R55). -/
def issue (c : Nat) (s : State) : Host.Outcome State Fault Refusal :=
  match (s.caller c).ops with
  | [] => .next s
  | op :: rest =>
    match decode s.params op with
    | .ok i => exec i (s.setCaller c { s.caller c with ops := rest })
    | .error .wordSize => .next (s.setCaller c { s.caller c with ops := rest }).refuseWordSize

/-- Caller `c` takes its enabled step, if it has one (R215). -/
def turn (c : Nat) (s : State) : Host.Outcome State Fault Refusal :=
  match s.phase c with
  | .idle => issue c { s with cur := c }
  | .ledWaiting buf => exec (.apply buf) { s with cur := c }
  | .ledHolding buf => exec (.apply buf) { s with cur := c }
  | .buzHolding f => exec (freqInstr f) { s with cur := c }

/-- One event. -/
def takeEvent (e : Event) (s : State) : Host.Outcome State Fault Refusal :=
  match e with
  | .turn c => turn c s
  | .interrupt c => .next (ledInterrupt c s)
  | .openBlock => openBlock s
  | .closeBlock => .next (closeBlock s)

/-- The first scheduled event, on the machine without it; with none scheduled the machine waits (log 1). -/
def advance (s : State) : Host.Outcome State Fault Refusal :=
  match s.sched with
  | [] => .next s
  | e :: rest => takeEvent e { s with sched := rest }

/-- The machine with one more operation placed: a caller at rest is given `op` to issue, and its turn comes next. -/
def State.withOp (s : State) (op : HostOp) : State :=
  { s with
    callers := writeCaller (freshCaller s.callers) { ops := [op] } s.callers
    sched := .turn (freshCaller s.callers) :: s.sched }

end Sys2Proof.Machine
end

