-- ==== Sys2Proof/Machine/Step.lean ====
section
/-!
DEFINITION. One step of the machine: one atomic step of one caller, or one event of the environment (R215).
-/

namespace Sys2Proof.Machine

/-- A state that carries `TimerSinkFault` steps no further (R171, R210; log 9). -/
def step (s : State) : Host.Outcome State Fault Refusal :=
  if s.marks.timerSinkFault then .fault .timerSinkFault else advance s

/-- `s` with the write that carries a table word as the next thing a caller issues (log 8, 20). -/
def State.withFetchWord (s : State) (nbits w : Nat) : State :=
  s.withOp (tableWrite nbits w)

end Sys2Proof.Machine
end

