-- ==== Sys2Proof/Safety.lean ====
section
/-!
DEFINITION. What counts as a safe state and as the end of a run, in the terms the statements use.
-/

namespace Sys2Proof

/-- The internal operations and the sub-form (R80): a caller does not start them, they are steps of an APPLY. -/
def Instr.isInternal : Instr → Bool
  | .apply _ => false
  | .entry _ _ => true
  | .entryWrite _ _ => true
  | .encode => true
  | .transmit _ => true
  | .setfreqOff => false
  | .setfreqTone _ => false
  | .lightOn _ _ => false
  | .lightOff => false

/-- The instructions of the buzzer converter unit (R80); every other one is of the LED frame unit. -/
def Instr.isBuzzer : Instr → Bool
  | .apply _ => false
  | .entry _ _ => false
  | .entryWrite _ _ => false
  | .encode => false
  | .transmit _ => false
  | .setfreqOff => true
  | .setfreqTone _ => true
  | .lightOn _ _ => false
  | .lightOff => false

/-- `c` is the offset of the first colon at or after `pos` (R102). -/
def FirstColon (text : List Byte) (pos c : Nat) : Prop :=
  pos ≤ c ∧ text[c]? = some colon ∧ ∀ k, pos ≤ k → k < c → text[k]? ≠ some colon

/-- The index field between the cursor and the colon (R102). -/
def indexField (text : List Byte) (pos c : Nat) : List Byte := (text.drop pos).take (c - pos)

/-- The lower-case spelling of a letter `A` to `Z`; every other byte as it is (R109). -/
def lowerCase (b : Byte) : Byte := if 0x41 ≤ b.toNat ∧ b.toNat ≤ 0x5A then b + 0x20 else b

end Sys2Proof

namespace Sys2Proof.Machine

/-- The light registers after the decode step of an apply body on `text` (R108, R110, R111): every entry's write in text
order; with `APPLY_ATOMIC` set and an error, no write. -/
def appliedLights (p : Params) (lights : LightArray) (text : List Byte) : LightArray :=
  match (parseText p text).2 with
  | none => writeLights lights (parseText p text).1
  | some _ => if p.applyAtomic then lights else writeLights lights (parseText p text).1

/-- Each lock is held by caller `c` exactly when `c` is in the holding phase of that unit (R33). -/
def LocksAgree (s : State) : Prop :=
  ∀ c : Nat,
    (s.led.lock = .held c ↔ ∃ buf, s.phase c = .ledHolding buf) ∧
    (s.buz.lock = .held c ↔ ∃ f, s.phase c = .buzHolding f)

/-- No operation is in progress at a unit that is not open (R34, R232). -/
def ClosedUnitsIdle (s : State) : Prop :=
  ∀ c : Nat,
    (s.led.isOpen = false → (∀ buf, s.phase c ≠ .ledWaiting buf) ∧ ∀ buf, s.phase c ≠ .ledHolding buf) ∧
    (s.buz.isOpen = false → ∀ f, s.phase c ≠ .buzHolding f)

/-- Every captured CommandText has at most `CMD_MAX_LEN` bytes (R35). -/
def TextsBounded (s : State) : Prop :=
  ∀ (c : Nat) (buf : List Byte),
    s.phase c = .ledWaiting buf ∨ s.phase c = .ledHolding buf → buf.length ≤ s.params.cmdMaxLen

/-- No cursor, staged write, frame or answer is left between two steps (R35 to R37). -/
def ScratchAtRest (s : State) : Prop := s.led.scratch = {}

/-- Every frame the transport sink was offered is the whole WireFrame of some light array (R65). -/
def FramesWhole (s : State) : Prop :=
  ∀ r ∈ s.led.xmitLog, ∃ lights : LightArray, r.frame = encodeFrame lights

/-- Every `Configure(duty, period)` has half the period as its duty, and a period within the bound (R163, R165, R213). -/
def TimerCallsInRange (s : State) : Prop :=
  ∀ d p, TimerCall.configure d p ∈ s.buz.timerLog → d = p / 2 ∧ p ≤ s.params.maxPeriodNs

/-- An enabled tone has a frequency, and its period is within the bound (R28, R165, R166). -/
def ToneInRange (s : State) : Prop :=
  s.buz.tone.enabled = true → s.buz.tone.frequencyHz ≠ 0 ∧ s.buz.tone.period ≤ s.params.maxPeriodNs

/-- No model-level mark is set (R210). -/
def NoMark (s : State) : Prop := s.marks = {}

/-- A run is at its end (R216): every caller is `Idle`, no mark is set, and no caller has a further operation to issue. -/
def Final (s : State) : Prop :=
  NoMark s ∧ ∀ c : Nat, s.phase c = .idle ∧ (s.caller c).ops = []

end Sys2Proof.Machine
end

