-- ==== Sys2Proof/Certificates/Slice0/Obligations.lean ====
section
/-!
DEFINITION. The statements for the provers.
-/

open Sys2Proof Sys2Proof.Machine

/-! ## Formats -/

/-- R80, R82, R84. Every well-formed operation that a caller starts has an encoding, and decoding it gives the operation
back, in either byte order of the frequency word. Every operand is at every value its encoding admits. -/
def Obligations.DecodeOfEncodeIsTheInstruction : Prop :=
  ∀ (p : Params) (i : Instr), i.wellFormed = true → i.isInternal = false →
    ∃ op, encode p i = some op ∧ decode p op = .ok i

/-- R53, R77, R84. Every 4-byte buzzer write decodes to one of the two forms, and its frequency word determines the bytes in
the byte order in force. -/
def Obligations.FourByteBuzzerWritesKeepEveryBit : Prop :=
  ∀ (p : Params) (b0 b1 b2 b3 : Byte), ∃ f : Freq,
    decode p (.buzzerBytes [b0, b1, b2, b3]) = .ok (freqInstr f) ∧ freqBytes p.freqByteOrder f = [b0, b1, b2, b3]

/-- R70, R72, R108, C2. The canonical CommandText of a non-empty list of entries decodes, in both settings of `SEP_MODE`, to
exactly those entries in order, without an error. -/
def Obligations.CanonicalTextDecodesToItsEntries : Prop :=
  ∀ (p : Params) (entries : List (LightIndex × Rgb)), entries ≠ [] → 1 ≤ p.indexMaxChars →
    parseText p (encodeText entries) = (entries, none)

/-- R108. The decode loop obeys the loop of the rule: its bound on the number of entries is never met. -/
def Obligations.DecodeLoopObeysItsPseudocode : Prop :=
  ∀ (p : Params) (text : List Byte) (fuel pos : Nat), text.length - pos < fuel →
    parseLoop p text fuel pos =
      match decodeEntry p text pos with
      | .error e => ([], some e)
      | .ok d =>
        match nextEntry p text d.stop with
        | none => ([(d.index, d.rgb)], none)
        | some q => ((d.index, d.rgb) :: (parseLoop p text fuel q).1, (parseLoop p text fuel q).2)

/-- R102. `MissingColon` exactly when no colon stands at or after the cursor. -/
def Obligations.MissingColonExactlyWhenNoColonFollows : Prop :=
  ∀ (p : Params) (text : List Byte) (pos : Nat),
    decodeEntry p text pos = .error .missingColon ↔ ∀ k, pos ≤ k → text[k]? ≠ some colon

/-- R103. `IndexTooLong` exactly when the bytes before the first colon are more than `INDEX_MAX_CHARS`. -/
def Obligations.IndexTooLongExactlyWhenFieldExceedsLimit : Prop :=
  ∀ (p : Params) (text : List Byte) (pos : Nat),
    decodeEntry p text pos = .error .indexTooLong ↔ ∃ c, FirstColon text pos c ∧ p.indexMaxChars < c - pos

/-- R104, R74. `IndexOutOfRange` exactly when an index field within the limit is empty, holds a byte that is no decimal digit,
or spells 7 or more. -/
def Obligations.IndexOutOfRangeExactlyWhenNoLightIsNamed : Prop :=
  ∀ (p : Params) (text : List Byte) (pos : Nat),
    decodeEntry p text pos = .error .indexOutOfRange ↔
      ∃ c, FirstColon text pos c ∧ c - pos ≤ p.indexMaxChars ∧
        (c = pos ∨ (∃ b ∈ indexField text pos c, b.toNat < 0x30 ∨ 0x39 < b.toNat) ∨
          ∃ i, decimalValue? (indexField text pos c) = some i ∧ 7 ≤ i)

/-- R105. `InvalidHexDigit` exactly when the index names a light and fewer than six bytes follow the colon or one of the six
is no hex digit. -/
def Obligations.InvalidHexDigitExactlyWhenColourFieldIsBad : Prop :=
  ∀ (p : Params) (text : List Byte) (pos : Nat),
    decodeEntry p text pos = .error .invalidHexDigit ↔
      ∃ c i, FirstColon text pos c ∧ c - pos ≤ p.indexMaxChars ∧
        decimalValue? (indexField text pos c) = some i ∧ i < 7 ∧
        (text.length < c + 7 ∨ ∃ k b, k < 6 ∧ text[c + 1 + k]? = some b ∧ hexDigit? b = none)

/-- R106. With `scan` the next entry starts after the first comma at or after offset `e`; with `adjacent` only after a comma
at `e` itself. -/
def Obligations.SeparatorStartsTheNextEntry : Prop :=
  ∀ (p : Params) (text : List Byte) (e q : Nat),
    nextEntry p text e = some q ↔
      match p.sepMode with
      | .scan => ∃ m, e ≤ m ∧ text[m]? = some comma ∧ (∀ k, e ≤ k → k < m → text[k]? ≠ some comma) ∧ q = m + 1
      | .adjacent => text[e]? = some comma ∧ q = e + 1

/-- R50, R73. Six hex digits, the first the most significant nibble: each channel is sixteen times its first digit plus its
second. -/
def Obligations.ColourChannelsComeFromTheirDigitPairs : Prop :=
  ∀ (b0 b1 b2 b3 b4 b5 : Byte) (h0 h1 h2 h3 h4 h5 : BitVec 4),
    hexDigit? b0 = some h0 → hexDigit? b1 = some h1 → hexDigit? b2 = some h2 → hexDigit? b3 = some h3 →
    hexDigit? b4 = some h4 → hexDigit? b5 = some h5 →
    ∃ v, colourField? [b0, b1, b2, b3, b4, b5] = some v ∧ v = h0 ++ h1 ++ h2 ++ h3 ++ h4 ++ h5 ∧
      (red v).toNat = 16 * h0.toNat + h1.toNat ∧
      (green v).toNat = 16 * h2.toNat + h3.toNat ∧
      (blue v).toNat = 16 * h4.toNat + h5.toNat

/-- R109, R72. Every spelling of a colour reads back as that colour, whichever of its letters are in upper and in lower case
(the letters' byte values are R71's, log 19). -/
def Obligations.ColourSpellingsReadBack : Prop :=
  ∀ (v : Rgb) (digits : List Byte),
    digits.map lowerCase = (colourText v).map lowerCase → colourField? digits = some v

/-- R193, R74. `D(n)` reads back as `n`, and has no leading zero unless it is the digit `0` itself. -/
def Obligations.DecimalSpellingReadsBack : Prop :=
  ∀ n : Nat, decimalValue? (decimalText n) = some n ∧ (n ≠ 0 → (decimalText n).head? ≠ some 0x30)

/-- R76, R75, R51. The layout of the WireFrame: 36 bytes, the start bytes, each light's group at `4 + 4i` in the order
brightness, blue, green, red, and the end marker. -/
def Obligations.WireFrameHasTheLayoutOfTheRule : Prop :=
  ∀ lights : LightArray,
    (encodeFrame lights).length = 36 ∧
    (∀ k, k < 4 → (encodeFrame lights)[k]? = some 0x00) ∧
    (∀ i : LightIndex,
      (encodeFrame lights)[4 + 4 * i.val]? = some 0xFF ∧
      (encodeFrame lights)[4 + 4 * i.val + 1]? = some (blue lights[i]) ∧
      (encodeFrame lights)[4 + 4 * i.val + 2]? = some (green lights[i]) ∧
      (encodeFrame lights)[4 + 4 * i.val + 3]? = some (red lights[i])) ∧
    (∀ k, 32 ≤ k → k < 36 → (encodeFrame lights)[k]? = some 0xFF)

/-- R131. ENCODE is injective: two different light arrays give two different frames. -/
def Obligations.WireFrameDeterminesTheLights : Prop :=
  ∀ a b : LightArray, encodeFrame a = encodeFrame b → a = b

/-- R71, R53, W3, V-B6: words written out from the encodings decode to what they stand for. -/
def Obligations.WrittenOutWordsDecode : Prop :=
  decode { freqByteOrder := .big } (.buzzerBytes [0x00, 0x00, 0x01, 0xB8]) = .ok (.setfreqTone 440) ∧
  decode { freqByteOrder := .little } (.buzzerBytes [0xB8, 0x01, 0x00, 0x00]) = .ok (.setfreqTone 440) ∧
  decodeTableWord 32 0x00000000 = some .setfreqOff ∧
  parseText { freqByteOrder := .big }
    [0x30, 0x3A, 0x46, 0x46, 0x30, 0x30, 0x30, 0x30, 0x2C, 0x33, 0x3A, 0x30, 0x30, 0x46, 0x46, 0x30, 0x30] =
    ([(0, 0xFF0000), (3, 0x00FF00)], none)

/-! ## The end of an operation -/

/-- R202. The return of an outcome, the part of an operation's end that all ends share: one outcome goes to the caller, whose
phase becomes `Idle`; what the caller has still to issue, every other caller and everything else is as before, a lock it
may hold among it. Releasing a held lock is `finishApply`'s and `finishSetFreq`'s part, in the statements on the bodies.
That outcomes are kept in a list is the model's choice (log 4). -/
def Obligations.EndingAnOperationReturnsItsOutcome : Prop :=
  ∀ (s : State) (c : Nat) (e : OpOutcome),
    (s.endOp c e).phase c = .idle ∧
    ((s.endOp c e).caller c).results = (s.caller c).results ++ [e] ∧
    ((s.endOp c e).caller c).ops = (s.caller c).ops ∧
    (∀ d, d ≠ c → (s.endOp c e).caller d = s.caller d) ∧
    { s.endOp c e with callers := s.callers } = s

/-! ## APPLY -/

/-- R34, R146, R204. A light-port operation at a unit that is not open ends with `DeviceUnavailable` and changes nothing
else, whatever its text: the check comes before the length check. A good `lightOn` ends as the APPLY it issues. -/
def Obligations.ClosedUnitAnswersDeviceUnavailable : Prop :=
  ∀ (s : State) (text : List Byte) (pins : List Nat) (colors : List (List Byte)),
    s.phase s.cur = .idle → s.led.isOpen = false →
    exec (.apply text) s = .next (s.endOp s.cur .deviceUnavailable) ∧
    (badLightArgs s.params pins colors = false →
      exec (.lightOn pins colors) s = .next (s.endOp s.cur .deviceUnavailable))

/-- R101, R146, R54. An open unit rejects a text longer than the cap whole, with `OversizeError` and no other change; every
other text, the cap itself included, is captured, and the caller waits for the lock. -/
def Obligations.LedAcceptChecksTheLength : Prop :=
  ∀ (s : State) (text : List Byte),
    s.phase s.cur = .idle → s.led.isOpen = true →
    (s.params.cmdMaxLen < text.length → exec (.apply text) s = .next (s.endOp s.cur .oversizeError)) ∧
    (text.length ≤ s.params.cmdMaxLen → exec (.apply text) s = .next (s.setPhase s.cur (.ledWaiting text)))

/-- R147, R59, R60. A waiting caller takes a free lock and keeps its captured text, whatever it offers as text by then (log
16); while the lock is held it stays waiting, and the model's step answers the same state (log 2). -/
def Obligations.LedAcquireTakesAFreeLock : Prop :=
  ∀ (s : State) (text buf : List Byte),
    s.phase s.cur = .ledWaiting buf →
    (s.led.lock = .free →
      exec (.apply text) s = .next ((s.setLedLock (.held s.cur)).setPhase s.cur (.ledHolding buf))) ∧
    (∀ d, s.led.lock = .held d → exec (.apply text) s = .next s)

/-- R141, R108, R143, R144, R148. LED_BODY is one step: the text is decoded into the light registers; on an error nothing is
sent; else exactly one whole frame of the registers as written is sent, and a transport failure rolls nothing back. On
every path the lock is released and the caller is idle. The right side is written from the text alone, not from the
machine's loop, and only the captured text counts, whatever text the caller offers (R60; log 16). -/
def Obligations.LedBodyDecodesSendsAndReleases : Prop :=
  ∀ (s : State) (text buf : List Byte),
    s.phase s.cur = .ledHolding buf →
    exec (.apply text) s = .next
      (match (parseText s.params buf).2 with
      | some e =>
        ({ s with led := { s.led with
            lights := appliedLights s.params s.led.lights buf, lock := .free, scratch := {} } } : State).endOp
          s.cur e.outcome
      | none =>
        ({ s with
            led := { s.led with
              lights := appliedLights s.params s.led.lights buf, lock := .free, scratch := {},
              xmitLog := s.led.xmitLog ++
                [{ frame := encodeFrame (appliedLights s.params s.led.lights buf), answer := s.transportAnswer }] }
            env := s.afterTransport } : State).endOp
          s.cur (if s.transportAnswer = .fail then .transportError else .ok))

/-- R108, R110, R130, R141. An APPLY body on the canonical text of any non-empty list of entries writes exactly those entries
in order and sends the frame of the result, whatever text the caller offers by then (R60; log 16). -/
def Obligations.CanonicalApplyShowsItsEntries : Prop :=
  ∀ (s : State) (text : List Byte) (entries : List (LightIndex × Rgb)),
    entries ≠ [] → 1 ≤ s.params.indexMaxChars → s.phase s.cur = .ledHolding (encodeText entries) →
    ∃ t, exec (.apply text) s = .next t ∧
      t.led.lights = writeLights s.led.lights entries ∧
      t.led.xmitLog = s.led.xmitLog ++
        [{ frame := encodeFrame (writeLights s.led.lights entries), answer := s.transportAnswer }] ∧
      t.led.lock = .free ∧ t.phase s.cur = .idle

/-- R149, W2. For every light and every six hex digits, in either case, the frame of an APPLY of `"i:RRGGBB"` carries
brightness, blue, green and red at `4 + 4i` to `4 + 4i + 3`, whatever text the caller offers by then (R60; log 16). -/
def Obligations.ApplyOfOneEntrySendsItsGroup : Prop :=
  ∀ (s : State) (text digits : List Byte) (i : LightIndex) (v : Rgb),
    colourField? digits = some v → 1 ≤ s.params.indexMaxChars →
    s.phase s.cur = .ledHolding (entryText i.val digits) →
    ∃ t r, exec (.apply text) s = .next t ∧ t.led.xmitLog = s.led.xmitLog ++ [r] ∧
      r.frame[4 + 4 * i.val]? = some 0xFF ∧
      r.frame[4 + 4 * i.val + 1]? = some (blue v) ∧
      r.frame[4 + 4 * i.val + 2]? = some (green v) ∧
      r.frame[4 + 4 * i.val + 3]? = some (red v)

/-- R112, R113. After a body that decodes without an error, a light that the last entry naming it set to `v` holds `v`, and a
light no entry names keeps its value. Only the captured text counts (R60; log 16). -/
def Obligations.LastEntryForALightDecides : Prop :=
  ∀ (s : State) (text buf : List Byte) (j : LightIndex),
    s.phase s.cur = .ledHolding buf → (parseText s.params buf).2 = none →
    ∃ t, exec (.apply text) s = .next t ∧
      ((∀ w ∈ (parseText s.params buf).1, w.1 ≠ j) → t.led.lights[j] = s.led.lights[j]) ∧
      (∀ (v : Rgb) (front back : List (LightIndex × Rgb)),
        (parseText s.params buf).1 = front ++ (j, v) :: back → (∀ w ∈ back, w.1 ≠ j) → t.led.lights[j] = v)

/-! ## The internal operations of an apply body -/

/-- R108. ENTRY inside an apply body: a failing entry ends the decode with its error and drops the staging list; a good one
that a separator follows is written and moves the cursor; a good one without a separator is written, and the decode has
succeeded with the staged writes performed. Nothing else changes. -/
def Obligations.EntryRunsOneTurnOfTheDecodeLoop : Prop :=
  ∀ (s : State) (text buf : List Byte) (pos : Nat),
    s.phase s.cur = .ledHolding buf →
    (∀ e, decodeEntry s.params text pos = .error e →
      exec (.entry text pos) s = .next { s with led := { s.led with
        scratch := { s.led.scratch with decode := .failed e, staged := [] } } }) ∧
    (∀ d q, decodeEntry s.params text pos = .ok d → nextEntry s.params text d.stop = some q →
      exec (.entry text pos) s = .next { s with led := { s.led with
        lights := if s.params.applyAtomic then s.led.lights else s.led.lights.set d.index d.rgb
        scratch := { s.led.scratch with
          decode := .pending
          cursor := q
          staged := if s.params.applyAtomic then s.led.scratch.staged ++ [(d.index, d.rgb)]
            else s.led.scratch.staged } } }) ∧
    (∀ d, decodeEntry s.params text pos = .ok d → nextEntry s.params text d.stop = none →
      exec (.entry text pos) s = .next { s with led := { s.led with
        lights := if s.params.applyAtomic then writeLights s.led.lights (s.led.scratch.staged ++ [(d.index, d.rgb)])
          else writeLights (s.led.lights.set d.index d.rgb) s.led.scratch.staged
        scratch := { s.led.scratch with decode := .succeeded, staged := [] } } })

/-- R110, R111. ENTRY_WRITE inside an apply body writes the one register at once and leaves the other six, or appends to the
staging list and leaves all seven, as `APPLY_ATOMIC` says. Nothing else changes. The transients' fields are the model's (log 15). -/
def Obligations.EntryWriteWritesOrStages : Prop :=
  ∀ (s : State) (buf : List Byte) (i : LightIndex) (v : Rgb),
    s.phase s.cur = .ledHolding buf →
    ∃ t, exec (.entryWrite i v) s = .next t ∧
      { t with led := s.led } = s ∧
      { t.led with lights := s.led.lights, scratch := s.led.scratch } = s.led ∧
      (s.params.applyAtomic = false →
        t.led.lights[i] = v ∧ (∀ j : LightIndex, j ≠ i → t.led.lights[j] = s.led.lights[j]) ∧
        t.led.scratch = s.led.scratch) ∧
      (s.params.applyAtomic = true →
        t.led.lights = s.led.lights ∧
        t.led.scratch = { s.led.scratch with staged := s.led.scratch.staged ++ [(i, v)] })

/-- R130, R57. ENCODE inside an apply body puts the frame of all seven registers in the frame buffer and changes nothing
else. The buffer is the model's transient field (log 15). -/
def Obligations.EncodeFillsTheFrameBuffer : Prop :=
  ∀ (s : State) (buf : List Byte),
    s.phase s.cur = .ledHolding buf →
    exec .encode s = .next { s with led := { s.led with
      scratch := { s.led.scratch with frame := some (encodeFrame s.led.lights) } } }

/-- R142, R39. TRANSMIT inside an apply body appends one record, the frame with the sink's answer, whatever the answer is;
only the log, the kept answer (the model's transient field, log 15) and the environment's answers (log 5) change. -/
def Obligations.TransmitAppendsOneRecord : Prop :=
  ∀ (s : State) (buf frame : List Byte),
    s.phase s.cur = .ledHolding buf → frame.length = 36 →
    exec (.transmit frame) s = .next { s with
      led := { s.led with
        scratch := { s.led.scratch with answer := some s.transportAnswer }
        xmitLog := s.led.xmitLog ++ [{ frame := frame, answer := s.transportAnswer }] }
      env := s.afterTransport }

/-! ## setFrequency -/

/-- R162, R59. BUZ_TRY of an idle caller: on a unit that is not open the operation ends with `DeviceUnavailable`; on an open
unit it takes a free lock in one step, and with the lock held it ends at once with `BusyError`. Where it ends, nothing but
the caller changes. -/
def Obligations.BuzTryTakesTheLockOrIsBusy : Prop :=
  ∀ (s : State) (f : Freq),
    s.phase s.cur = .idle →
    (s.buz.isOpen = false →
      exec .setfreqOff s = .next (s.endOp s.cur .deviceUnavailable) ∧
      exec (.setfreqTone f) s = .next (s.endOp s.cur .deviceUnavailable)) ∧
    (s.buz.isOpen = true → s.buz.lock = .free →
      exec .setfreqOff s = .next ((s.setBuzLock (.held s.cur)).setPhase s.cur (.buzHolding 0)) ∧
      exec (.setfreqTone f) s = .next ((s.setBuzLock (.held s.cur)).setPhase s.cur (.buzHolding f))) ∧
    (∀ d, s.buz.isOpen = true → s.buz.lock = .held d →
      exec .setfreqOff s = .next (s.endOp s.cur .busyError) ∧
      exec (.setfreqTone f) s = .next (s.endOp s.cur .busyError))

/-- R164, R167, R26, R27. The off body, when the timer sink does not fail: `Disable` is called, `enabled` is cleared,
`frequency_hz` is kept, the lock is released and the outcome is `OK`, from any prior ToneState. -/
def Obligations.SetFreqOffDisablesTheTone : Prop :=
  ∀ s : State,
    s.phase s.cur = .buzHolding 0 → s.timerAnswer = .ok →
    exec .setfreqOff s = .next
      (({ s with
          buz := { s.buz with
            tone := { enabled := false, frequencyHz := s.buz.tone.frequencyHz }
            lock := .free
            timerLog := s.buz.timerLog ++ [.disable] }
          env := s.afterTimer } : State).endOp s.cur .ok)

/-- R161, R163, R166, R167. The tone body, for a period within the bound and a timer sink that fails neither call (an
infallible one never does, R171): `Configure(duty, period)` then `Enable` are called, the tone is enabled with its
frequency, the lock is released and the outcome is `OK`. -/
def Obligations.SetFreqToneProgramsTheTimer : Prop :=
  ∀ (s : State) (f : Freq),
    s.phase s.cur = .buzHolding f → f ≠ 0 → 1000000000 / f.toNat ≤ s.params.maxPeriodNs →
    s.timerAnswer = .ok → (s.timerCall (.configure (dutyNs f) (periodNs f))).timerAnswer = .ok →
    exec (.setfreqTone f) s = .next
      (({ s with
          buz := { s.buz with
            tone := { enabled := true, frequencyHz := f }
            lock := .free
            timerLog := s.buz.timerLog ++
              [.configure (1000000000 / f.toNat / 2) (1000000000 / f.toNat), .enable] }
          env := (s.timerCall (.configure (dutyNs f) (periodNs f))).afterTimer } : State).endOp s.cur .ok)

/-- R165. A period above the bound ends the operation with `PeriodOverflow`: no timer-sink call, ToneState unchanged, the lock
released. -/
def Obligations.PeriodAboveTheBoundIsRejected : Prop :=
  ∀ (s : State) (f : Freq),
    s.phase s.cur = .buzHolding f → f ≠ 0 → s.params.maxPeriodNs < 1000000000 / f.toNat →
    exec (.setfreqTone f) s = .next ((s.setBuzLock .free).endOp s.cur .periodOverflow)

/-- R168, R163. The laws of the conversion, for every non-zero frequency word. -/
def Obligations.PeriodAndDutyObeyTheArithmeticLaws : Prop :=
  ∀ f : Freq, f ≠ 0 →
    periodNs f * f.toNat ≤ 1000000000 ∧ 1000000000 < (periodNs f + 1) * f.toNat ∧ periodNs f ≤ 1000000000 ∧
    2 * dutyNs f ≤ periodNs f ∧ periodNs f ≤ 2 * dutyNs f + 1 ∧ dutyNs f ≤ 500000000 ∧
    periodNs f < 2 ^ 30 ∧ dutyNs f < 2 ^ 30

/-- R170. With a bound of at least 10^9, the default among them, no tone ends with `PeriodOverflow`; with a bound of 10^8
exactly the frequencies 1 to 9 exceed it. -/
def Obligations.PeriodOverflowNeedsASmallBound : Prop :=
  (∀ (s t : State) (f : Freq), 1000000000 ≤ s.params.maxPeriodNs → s.phase s.cur = .buzHolding f →
    exec (.setfreqTone f) s = .next t →
    (t.caller s.cur).results ≠ (s.caller s.cur).results ++ [.periodOverflow]) ∧
  ∀ f : Freq, f ≠ 0 → (100000000 < periodNs f ↔ f.toNat ≤ 9)

/-- R171, R210. When the timer sink fails a call, the first or, for a tone, the second, the mark is set, the calls made so
far are in the log, and neither ToneState nor the caller changes. A machine that carries the mark stops: every further step
is that fault (what a failed body leaves, and that the machine stops, are the model's choices, log 9, 10). -/
def Obligations.TimerFailureMarksAndStopsTheMachine : Prop :=
  (∀ (s : State) (f : Freq),
    s.phase s.cur = .buzHolding f → s.timerAnswer = .fail → periodNs f ≤ s.params.maxPeriodNs →
    ∃ t, exec (freqInstr f) s = .next t ∧ t.marks.timerSinkFault = true ∧
      t.buz.timerLog = s.buz.timerLog ++ [if f = 0 then .disable else .configure (dutyNs f) (periodNs f)] ∧
      t.buz.tone = s.buz.tone ∧ t.callers = s.callers) ∧
  (∀ (s : State) (f : Freq),
    s.phase s.cur = .buzHolding f → f ≠ 0 → periodNs f ≤ s.params.maxPeriodNs → s.timerAnswer = .ok →
    (s.timerCall (.configure (dutyNs f) (periodNs f))).timerAnswer = .fail →
    ∃ t, exec (.setfreqTone f) s = .next t ∧ t.marks.timerSinkFault = true ∧
      t.buz.timerLog = s.buz.timerLog ++ [.configure (dutyNs f) (periodNs f), .enable] ∧
      t.buz.tone = s.buz.tone ∧ t.callers = s.callers) ∧
  ∀ s : State, s.marks.timerSinkFault = true → step s = .fault .timerSinkFault

/-! ## The pseudo-operations -/

/-- R192. Both branches of the policy are one rule: the pin's own colour when there are as many colours as pins, else the
first colour. -/
def Obligations.ColourSelectionIsOneRule : Prop :=
  ∀ (colors : List (List Byte)) (n j : Nat), colors ≠ [] → j < n →
    colourAt colors n j = if colors.length = n then colors.getD j [] else colors.getD 0 []

/-- R191. An idle caller's `lightOn` is an `ArgError`, with no APPLY and no other change, exactly when a check of the rule
fails; else it is the APPLY of the built text. -/
def Obligations.LightOnChecksItsArguments : Prop :=
  ∀ (s : State) (pins : List Nat) (colors : List (List Byte)),
    s.phase s.cur = .idle →
    (pins = [] ∨ 7 < pins.length ∨ colors = [] ∨ s.params.cmdMaxLen < (buildText pins colors).length →
      exec (.lightOn pins colors) s = .next (s.endOp s.cur .argError)) ∧
    (pins ≠ [] → pins.length ≤ 7 → colors ≠ [] → (buildText pins colors).length ≤ s.params.cmdMaxLen →
      exec (.lightOn pins colors) s = exec (.apply (buildText pins colors)) s)

/-- R190, R193. For pins that are light indices and well-spelled colours, one for each pin or a single one, the built text is
the canonical text of the pins zipped with their colours. -/
def Obligations.LightOnBuildsTheCanonicalText : Prop :=
  ∀ (pins : List LightIndex) (colors : List Rgb),
    (colors.length = pins.length →
      buildText (pins.map Fin.val) (colors.map colourText) = encodeText (pins.zip colors)) ∧
    (∀ v : Rgb, buildText (pins.map Fin.val) [colourText v] = encodeText (pins.map (fun i => (i, v))))

/-- R190, R195, R141, R148. `lightOn` with good arguments, an open unit and a free lock: its three steps wait, take the lock
and run the body of the APPLY of the built text. The body writes the registers, sends exactly one frame of them if the text
decodes and none else, frees the lock and ends with that APPLY's outcome; the buzzer unit stays. In every other phase `exec`
of `lightOn` is its APPLY's next step, whatever the text is. That `exec` of LIGHT_ON goes on as its APPLY is the model's
reading (log 18), as is that the captured text counts (log 16). -/
def Obligations.LightOnRunsItsApply : Prop :=
  ∀ (s : State) (pins : List Nat) (colors : List (List Byte)),
    (s.phase s.cur = .idle → s.led.isOpen = true → s.led.lock = .free → badLightArgs s.params pins colors = false →
      ∃ t u v,
        exec (.lightOn pins colors) s = .next t ∧ t.phase s.cur = .ledWaiting (buildText pins colors) ∧
        exec (.lightOn pins colors) t = .next u ∧ u.led.lock = .held s.cur ∧
        exec (.lightOn pins colors) u = .next v ∧
        v.led.lights = appliedLights s.params s.led.lights (buildText pins colors) ∧
        v.led.xmitLog = s.led.xmitLog ++
          (match (parseText s.params (buildText pins colors)).2 with
          | some _ => []
          | none =>
            [{ frame := encodeFrame (appliedLights s.params s.led.lights (buildText pins colors))
               answer := s.transportAnswer }]) ∧
        v.led.lock = .free ∧ v.phase s.cur = .idle ∧ v.buz = s.buz ∧
        (v.caller s.cur).results = (s.caller s.cur).results ++
          [match (parseText s.params (buildText pins colors)).2 with
          | some e => e.outcome
          | none => if s.transportAnswer = .fail then .transportError else .ok]) ∧
    (s.phase s.cur ≠ .idle → ∀ text : List Byte, exec (.lightOn pins colors) s = exec (.apply text) s)

/-- R194, R191, R132. `lightOff()` is `lightOn([0,1,2,3,4,5,6], ["000000"])` in every state. From an idle caller: with
`CMD_MAX_LEN` below its 62 bytes it is an `ArgError`; else at a unit that is not open it is `DeviceUnavailable`; else, with a
free lock, after its three steps every light is black and one all-black frame has been sent. That `exec` of LIGHT_OFF goes
on as its APPLY is the model's reading (log 18). -/
def Obligations.LightOffBlackensEveryLight : Prop :=
  ∀ s : State,
    exec .lightOff s = exec (.lightOn [0, 1, 2, 3, 4, 5, 6] [[0x30, 0x30, 0x30, 0x30, 0x30, 0x30]]) s ∧
    (s.phase s.cur = .idle →
      (s.params.cmdMaxLen < 62 → exec .lightOff s = .next (s.endOp s.cur .argError)) ∧
      (62 ≤ s.params.cmdMaxLen → s.led.isOpen = false →
        exec .lightOff s = .next (s.endOp s.cur .deviceUnavailable)) ∧
      (62 ≤ s.params.cmdMaxLen → s.led.isOpen = true → s.led.lock = .free → 1 ≤ s.params.indexMaxChars →
        ∃ t u v,
          exec .lightOff s = .next t ∧ exec .lightOff t = .next u ∧ exec .lightOff u = .next v ∧
          v.led.lights = Vector.replicate 7 0x000000 ∧
          v.led.xmitLog = s.led.xmitLog ++
            [{ frame := encodeFrame (Vector.replicate 7 0x000000), answer := s.transportAnswer }] ∧
          v.led.lock = .free ∧ v.phase s.cur = .idle ∧ v.buz = s.buz))

/-! ## Steps -/

/-- R38, R140, R160, R215. A turn of an idle caller whose next write decodes to `i` is `exec i`, on the machine with that write
taken from the caller's list and the event from the schedule (the lists are the model's own fields, log 1, 3, 8). A turn
of a caller with an operation in progress is that operation's next atomic step. -/
def Obligations.StepRunsTheDecodedInstruction : Prop :=
  ∀ (s : State) (c : Nat) (rest : List Event),
    s.marks.timerSinkFault = false → s.sched = .turn c :: rest →
    (∀ (op : HostOp) (ops : List HostOp) (i : Instr),
      s.phase c = .idle → (s.caller c).ops = op :: ops → decode s.params op = .ok i →
      step s = exec i (({ s with sched := rest, cur := c } : State).setCaller c { s.caller c with ops := ops })) ∧
    (∀ buf, s.phase c = .ledWaiting buf ∨ s.phase c = .ledHolding buf →
      step s = exec (.apply buf) { s with sched := rest, cur := c }) ∧
    (∀ f, s.phase c = .buzHolding f → step s = exec (freqInstr f) { s with sched := rest, cur := c })

/-- R55, R205, R210. A buzzer-port write of other than 4 bytes starts no operation, whether or not the unit is open: the write
is consumed, the mark is set, and nothing else changes. -/
def Obligations.WrongLengthBuzzerWriteIsRefused : Prop :=
  ∀ (s : State) (c : Nat) (rest : List Event) (bytes : List Byte) (ops : List HostOp),
    s.marks.timerSinkFault = false → s.sched = .turn c :: rest → s.phase c = .idle →
    (s.caller c).ops = .buzzerBytes bytes :: ops → bytes.length ≠ 4 →
    step s = .next (({ s with
      sched := rest, cur := c, marks := { s.marks with refusedWordSize := true } } : State).setCaller c
        { s.caller c with ops := ops })

/-- R145, R206. An external interruption of a waiting caller ends its APPLY with `InterruptedError` and changes nothing else,
whether the lock is free or held; delivered at any other time it has no effect. That the event is then used up, and never
pending, is the model's choice (log 22). -/
def Obligations.InterruptionEndsOnlyAWait : Prop :=
  ∀ (s : State) (c : Nat) (rest : List Event),
    s.marks.timerSinkFault = false → s.sched = .interrupt c :: rest →
    (∀ buf, s.phase c = .ledWaiting buf →
      step s = .next (({ s with sched := rest } : State).endOp c .interruptedError)) ∧
    ((∀ buf, s.phase c ≠ .ledWaiting buf) → step s = .next { s with sched := rest })

/-- R230, R231, R233. An open of a closed block: if it succeeds both units are as open creates them, every caller is idle with
its operations and outcomes as before, and no mark is set (log 13); if it fails both flags are 0. -/
def Obligations.OpenCreatesBothUnitsOrNeither : Prop :=
  ∀ (s : State) (rest : List Event),
    CallersWf s.callers → s.marks.timerSinkFault = false → s.sched = .openBlock :: rest →
    s.led.isOpen = false → s.buz.isOpen = false →
    (s.openAnswer = .ok → ∃ t, step s = .next t ∧
      t.led = LedUnit.opened ∧ t.buz = BuzUnit.opened ∧ t.marks = {} ∧ t.params = s.params ∧ t.sched = rest ∧
      ∀ c, t.phase c = .idle ∧ (t.caller c).ops = (s.caller c).ops ∧ (t.caller c).results = (s.caller c).results) ∧
    (s.openAnswer = .fail → ∃ t, step s = .next t ∧
      t.led.isOpen = false ∧ t.buz.isOpen = false ∧ t.led.xmitLog = s.led.xmitLog ∧
      t.buz.timerLog = s.buz.timerLog ∧ t.callers = s.callers ∧ t.marks = s.marks)

/-- R232. A close while every caller is idle clears both flags, and a second one changes nothing; a close while an operation is
in progress only sets the mark `RefusedCloseBusy`. That a refused close is used up, changes nothing but the mark, and lets
the machine go on is the model's reading (log 11). -/
def Obligations.CloseNeedsEveryCallerIdle : Prop :=
  ∀ (s : State) (rest : List Event),
    CallersWf s.callers → s.marks.timerSinkFault = false → s.sched = .closeBlock :: rest →
    ((∀ c, s.phase c = .idle) → ∃ t, step s = .next t ∧
      t.led.isOpen = false ∧ t.buz.isOpen = false ∧ t.callers = s.callers ∧ t.marks = s.marks ∧
      closeBlock t = t) ∧
    (∀ c, s.phase c ≠ .idle →
      step s = .next { s with sched := rest, marks := { s.marks with refusedCloseBusy := true } })

/-- R216, R209. A machine at the end of its run starts nothing by itself: a turn or an interruption of any caller takes the
event and changes nothing else (`cur` is the model's own field, log 3; an interruption is used up, log 22). -/
def Obligations.AFinalMachineStartsNothing : Prop :=
  ∀ (s : State) (c : Nat) (rest : List Event),
    Final s →
    (s.sched = .turn c :: rest → step s = .next { s with sched := rest, cur := c }) ∧
    (s.sched = .interrupt c :: rest → step s = .next { s with sched := rest })

/-- R61, R66, R208. A caller that holds a lock frees it with its next turn and is idle then, whatever its text or frequency is
(the buzzer's, unless its timer sink fails): no unit deadlocks. -/
def Obligations.AHolderFreesItsLockInOneTurn : Prop :=
  ∀ (s : State) (c : Nat) (rest : List Event),
    s.marks.timerSinkFault = false → s.sched = .turn c :: rest →
    (∀ buf, s.phase c = .ledHolding buf →
      ∃ t, step s = .next t ∧ t.led.lock = .free ∧ t.phase c = .idle) ∧
    (∀ f, s.phase c = .buzHolding f → s.params.timerSinkFallible = false →
      ∃ t, step s = .next t ∧ t.buz.lock = .free ∧ t.phase c = .idle)

/-- R63, R65, W12. Two callers wait with texts that decode; `c` takes the lock and runs its body, then `d` does. The log gains
their two whole frames in that order, and the registers and the last frame are as `d`, the later one, leaves them. -/
def Obligations.TheLaterOfTwoAppliesDecidesTheFrame : Prop :=
  ∀ (s : State) (c d : Nat) (a b : List Byte),
    c ≠ d → s.marks.timerSinkFault = false → s.led.lock = .free →
    s.sched = [.turn c, .turn c, .turn d, .turn d] →
    s.phase c = .ledWaiting a → s.phase d = .ledWaiting b →
    (parseText s.params a).2 = none → (parseText s.params b).2 = none →
    ∃ t x y, Sys2Proof.core.run 4 s = .next t ∧
      t.led.lights = writeLights (writeLights s.led.lights (parseText s.params a).1) (parseText s.params b).1 ∧
      t.led.xmitLog = s.led.xmitLog ++
        [{ frame := encodeFrame (writeLights s.led.lights (parseText s.params a).1), answer := x },
         { frame := encodeFrame t.led.lights, answer := y }] ∧
      t.led.lock = .free ∧ t.phase c = .idle ∧ t.phase d = .idle

/-! ## Frames and independence -/

/-- R41, R202, R203, R22. What no LED instruction changes, whatever it does: the buzzer unit, the parameters, the marks, the
open flag, the schedule, every other caller, what its own caller has still to issue; and, unless its caller holds the
lock, the light registers, the transients and the log. Every LED instruction answers a next state. -/
def Obligations.LedInstructionsFrame : Prop :=
  ∀ (i : Instr) (s : State), i.isBuzzer = false →
    ∃ t, exec i s = .next t ∧
      t.buz = s.buz ∧ t.params = s.params ∧ t.marks = s.marks ∧ t.cur = s.cur ∧ t.sched = s.sched ∧
      t.led.isOpen = s.led.isOpen ∧ t.env.timer = s.env.timer ∧ t.env.opens = s.env.opens ∧
      (∀ c, c ≠ s.cur → t.caller c = s.caller c) ∧ (t.caller s.cur).ops = (s.caller s.cur).ops ∧
      ((∀ buf, s.phase s.cur ≠ .ledHolding buf) →
        t.led.lights = s.led.lights ∧ t.led.scratch = s.led.scratch ∧ t.led.xmitLog = s.led.xmitLog ∧ t.env = s.env)

/-- R41, R202, R203, R26, R27. What no buzzer instruction changes: the LED unit, the parameters, the two refusal marks, the
open flag, the schedule, every other caller, what its own caller has still to issue; and, unless its caller holds the
buzzer lock, ToneState, the log and the marks. Every buzzer instruction answers a next state. -/
def Obligations.BuzzerInstructionsFrame : Prop :=
  ∀ (i : Instr) (s : State), i.isBuzzer = true →
    ∃ t, exec i s = .next t ∧
      t.led = s.led ∧ t.params = s.params ∧ t.cur = s.cur ∧ t.sched = s.sched ∧ t.buz.isOpen = s.buz.isOpen ∧
      t.env.transport = s.env.transport ∧ t.env.opens = s.env.opens ∧
      t.marks.refusedWordSize = s.marks.refusedWordSize ∧ t.marks.refusedCloseBusy = s.marks.refusedCloseBusy ∧
      (∀ c, c ≠ s.cur → t.caller c = s.caller c) ∧ (t.caller s.cur).ops = (s.caller s.cur).ops ∧
      ((∀ f, s.phase s.cur ≠ .buzHolding f) →
        t.buz.tone = s.buz.tone ∧ t.buz.timerLog = s.buz.timerLog ∧ t.marks = s.marks ∧ t.env = s.env)

/-- R41. The units share no state: an LED instruction neither reads nor writes anything of the buzzer unit, a buzzer
instruction nothing of the LED unit. And of the callers an instruction reads and writes only its own: from any caller table
that agrees at its caller it does the same, and leaves that table's other callers as they are. -/
def Obligations.UnitsDoNotInfluenceEachOther : Prop :=
  ∀ (i : Instr) (s t : State), exec i s = .next t →
    (i.isBuzzer = false → t.buz = s.buz ∧ ∀ b : BuzUnit, exec i { s with buz := b } = .next { t with buz := b }) ∧
    (i.isBuzzer = true → t.led = s.led ∧ ∀ l : LedUnit, exec i { s with led := l } = .next { t with led := l }) ∧
    (∀ c, c ≠ s.cur → t.caller c = s.caller c) ∧
    ∀ m : List (Nat × Caller), readCaller m s.cur = s.caller s.cur →
      ∃ n, exec i { s with callers := m } = .next { t with callers := n } ∧
        readCaller n s.cur = t.caller s.cur ∧ ∀ c, c ≠ s.cur → readCaller n c = readCaller m c

/-- R39, R57. The logs only grow: a step other than an open keeps every record of both logs, in order.
That a close keeps them too is the model's choice (log 14). -/
def Obligations.LogsOnlyGrow : Prop :=
  ∀ s t : State, step s = .next t → s.sched.head? ≠ some .openBlock →
    (∃ a, t.led.xmitLog = s.led.xmitLog ++ a) ∧ ∃ b, t.buz.timerLog = s.buz.timerLog ++ b

/-- R210. No step other than an open clears a mark (that a later open starts without marks is the model's reading, log 13);
no step at all changes a parameter (R6). -/
def Obligations.MarksAndParametersStay : Prop :=
  ∀ s t : State, step s = .next t →
    t.params = s.params ∧
    (s.sched.head? ≠ some .openBlock →
      (s.marks.timerSinkFault = true → t.marks.timerSinkFault = true) ∧
      (s.marks.refusedWordSize = true → t.marks.refusedWordSize = true) ∧
      (s.marks.refusedCloseBusy = true → t.marks.refusedCloseBusy = true))

/-! ## Invariants -/

/-- R33, R34. Every step keeps that each lock is held by exactly the caller in its holding phase and that no operation is in
progress at a closed unit. -/
def Obligations.StepsKeepLocksAndPhasesInAgreement : Prop :=
  ∀ s t : State, CallersWf s.callers → LocksAgree s → ClosedUnitsIdle s → step s = .next t →
    LocksAgree t ∧ ClosedUnitsIdle t

/-- Every step keeps the caller table in its canonical form (the model's own form, log 3). -/
def Obligations.StepsKeepTheCallerTableCanonical : Prop :=
  ∀ s t : State, CallersWf s.callers → step s = .next t → CallersWf t.callers

/-- R36, R37, R111. Every step leaves the transients of an apply body as it found them between two bodies: nothing of a body
is stored (log 15 for their values at rest). -/
def Obligations.StepsLeaveNothingOfABodyStored : Prop :=
  ∀ s t : State, ScratchAtRest s → step s = .next t → ScratchAtRest t

/-- R65, R76. Every step keeps that every frame the transport sink was ever offered is the whole WireFrame of a light
array. -/
def Obligations.StepsKeepEveryFrameWhole : Prop :=
  ∀ s t : State, FramesWhole s → step s = .next t → FramesWhole t

/-- R28, R165, R213. Every step keeps that every `Configure` has half its period as duty and a period within the bound, and
that an enabled tone has a frequency whose period is within the bound. -/
def Obligations.StepsKeepTimerCallsInRange : Prop :=
  ∀ s t : State, TimerCallsInRange s → ToneInRange s → step s = .next t → TimerCallsInRange t ∧ ToneInRange t

/-- R35, R101. Every step keeps every captured text within `CMD_MAX_LEN`. -/
def Obligations.StepsKeepCapturedTextsBounded : Prop :=
  ∀ s t : State, CallersWf s.callers → TextsBounded s → step s = .next t → TextsBounded t

/-- Reset meets every invariant that steps keep. -/
def Obligations.ResetMeetsEveryInvariant : Prop :=
  CallersWf State.reset.callers ∧ LocksAgree State.reset ∧ ClosedUnitsIdle State.reset ∧ TextsBounded State.reset ∧
  ScratchAtRest State.reset ∧ FramesWhole State.reset ∧ TimerCallsInRange State.reset ∧ ToneInRange State.reset

/-- R230, R24, R30, R31, R32. Reset is the block as open creates it (ToneState and the locks by the spec's decision D17). -/
def Obligations.ResetIsTheBlockJustOpened : Prop :=
  State.reset.led.isOpen = true ∧ State.reset.buz.isOpen = true ∧
  (∀ i : LightIndex, State.reset.led.lights[i] = 0x000000) ∧
  State.reset.buz.tone.enabled = false ∧ State.reset.buz.tone.frequencyHz = 0 ∧
  State.reset.led.lock = .free ∧ State.reset.buz.lock = .free ∧
  State.reset.led.xmitLog = [] ∧ State.reset.buz.timerLog = [] ∧
  (∀ c, State.reset.phase c = .idle) ∧ State.reset.marks = {}
end

