-- ==== Sys2Proof/Laws/State.lean ====
section
/-!
SUPPORT. One lemma per field per update of the machine's state, true by `rfl`: no later proof unfolds an update.
-/

namespace Sys2Proof.Machine

/-! ### `setCaller` -/

@[simp] theorem setCaller_params (s : State) (c : Nat) (v : Caller) :
    (s.setCaller c v).params = s.params := rfl

@[simp] theorem setCaller_marks (s : State) (c : Nat) (v : Caller) :
    (s.setCaller c v).marks = s.marks := rfl

@[simp] theorem setCaller_cur (s : State) (c : Nat) (v : Caller) :
    (s.setCaller c v).cur = s.cur := rfl

@[simp] theorem setCaller_sched (s : State) (c : Nat) (v : Caller) :
    (s.setCaller c v).sched = s.sched := rfl

@[simp] theorem setCaller_env (s : State) (c : Nat) (v : Caller) :
    (s.setCaller c v).env = s.env := rfl

@[simp] theorem setCaller_callers (s : State) (c : Nat) (v : Caller) :
    (s.setCaller c v).callers = writeCaller c v s.callers := rfl

@[simp] theorem setCaller_transportAnswer (s : State) (c : Nat) (v : Caller) :
    (s.setCaller c v).transportAnswer = s.transportAnswer := rfl

@[simp] theorem setCaller_afterTransport (s : State) (c : Nat) (v : Caller) :
    (s.setCaller c v).afterTransport = s.afterTransport := rfl

@[simp] theorem setCaller_timerAnswer (s : State) (c : Nat) (v : Caller) :
    (s.setCaller c v).timerAnswer = s.timerAnswer := rfl

@[simp] theorem setCaller_afterTimer (s : State) (c : Nat) (v : Caller) :
    (s.setCaller c v).afterTimer = s.afterTimer := rfl

@[simp] theorem setCaller_led (s : State) (c : Nat) (v : Caller) :
    (s.setCaller c v).led = s.led := rfl

@[simp] theorem setCaller_buz (s : State) (c : Nat) (v : Caller) :
    (s.setCaller c v).buz = s.buz := rfl

/-! ### `setPhase` -/

@[simp] theorem setPhase_params (s : State) (c : Nat) (p : Phase) :
    (s.setPhase c p).params = s.params := rfl

@[simp] theorem setPhase_marks (s : State) (c : Nat) (p : Phase) :
    (s.setPhase c p).marks = s.marks := rfl

@[simp] theorem setPhase_cur (s : State) (c : Nat) (p : Phase) :
    (s.setPhase c p).cur = s.cur := rfl

@[simp] theorem setPhase_sched (s : State) (c : Nat) (p : Phase) :
    (s.setPhase c p).sched = s.sched := rfl

@[simp] theorem setPhase_env (s : State) (c : Nat) (p : Phase) :
    (s.setPhase c p).env = s.env := rfl

@[simp] theorem setPhase_callers (s : State) (c : Nat) (p : Phase) :
    (s.setPhase c p).callers = writeCaller c { s.caller c with phase := p } s.callers := rfl

@[simp] theorem setPhase_transportAnswer (s : State) (c : Nat) (p : Phase) :
    (s.setPhase c p).transportAnswer = s.transportAnswer := rfl

@[simp] theorem setPhase_afterTransport (s : State) (c : Nat) (p : Phase) :
    (s.setPhase c p).afterTransport = s.afterTransport := rfl

@[simp] theorem setPhase_timerAnswer (s : State) (c : Nat) (p : Phase) :
    (s.setPhase c p).timerAnswer = s.timerAnswer := rfl

@[simp] theorem setPhase_afterTimer (s : State) (c : Nat) (p : Phase) :
    (s.setPhase c p).afterTimer = s.afterTimer := rfl

@[simp] theorem setPhase_led (s : State) (c : Nat) (p : Phase) :
    (s.setPhase c p).led = s.led := rfl

@[simp] theorem setPhase_buz (s : State) (c : Nat) (p : Phase) :
    (s.setPhase c p).buz = s.buz := rfl

/-! ### `endOp` -/

@[simp] theorem endOp_params (s : State) (c : Nat) (e : OpOutcome) :
    (s.endOp c e).params = s.params := rfl

@[simp] theorem endOp_marks (s : State) (c : Nat) (e : OpOutcome) :
    (s.endOp c e).marks = s.marks := rfl

@[simp] theorem endOp_cur (s : State) (c : Nat) (e : OpOutcome) :
    (s.endOp c e).cur = s.cur := rfl

@[simp] theorem endOp_sched (s : State) (c : Nat) (e : OpOutcome) :
    (s.endOp c e).sched = s.sched := rfl

@[simp] theorem endOp_env (s : State) (c : Nat) (e : OpOutcome) :
    (s.endOp c e).env = s.env := rfl

@[simp] theorem endOp_callers (s : State) (c : Nat) (e : OpOutcome) :
    (s.endOp c e).callers = writeCaller c { s.caller c with phase := .idle, results := (s.caller c).results ++ [e] } s.callers := rfl

@[simp] theorem endOp_transportAnswer (s : State) (c : Nat) (e : OpOutcome) :
    (s.endOp c e).transportAnswer = s.transportAnswer := rfl

@[simp] theorem endOp_afterTransport (s : State) (c : Nat) (e : OpOutcome) :
    (s.endOp c e).afterTransport = s.afterTransport := rfl

@[simp] theorem endOp_timerAnswer (s : State) (c : Nat) (e : OpOutcome) :
    (s.endOp c e).timerAnswer = s.timerAnswer := rfl

@[simp] theorem endOp_afterTimer (s : State) (c : Nat) (e : OpOutcome) :
    (s.endOp c e).afterTimer = s.afterTimer := rfl

@[simp] theorem endOp_led (s : State) (c : Nat) (e : OpOutcome) :
    (s.endOp c e).led = s.led := rfl

@[simp] theorem endOp_buz (s : State) (c : Nat) (e : OpOutcome) :
    (s.endOp c e).buz = s.buz := rfl

/-! ### `setLedLock` -/

@[simp] theorem setLedLock_params (s : State) (l : Lock) :
    (s.setLedLock l).params = s.params := rfl

@[simp] theorem setLedLock_marks (s : State) (l : Lock) :
    (s.setLedLock l).marks = s.marks := rfl

@[simp] theorem setLedLock_cur (s : State) (l : Lock) :
    (s.setLedLock l).cur = s.cur := rfl

@[simp] theorem setLedLock_sched (s : State) (l : Lock) :
    (s.setLedLock l).sched = s.sched := rfl

@[simp] theorem setLedLock_env (s : State) (l : Lock) :
    (s.setLedLock l).env = s.env := rfl

@[simp] theorem setLedLock_callers (s : State) (l : Lock) :
    (s.setLedLock l).callers = s.callers := rfl

@[simp] theorem setLedLock_caller (s : State) (l : Lock) (d : Nat) :
    (s.setLedLock l).caller d = s.caller d := rfl

@[simp] theorem setLedLock_phase (s : State) (l : Lock) (d : Nat) :
    (s.setLedLock l).phase d = s.phase d := rfl

@[simp] theorem setLedLock_transportAnswer (s : State) (l : Lock) :
    (s.setLedLock l).transportAnswer = s.transportAnswer := rfl

@[simp] theorem setLedLock_afterTransport (s : State) (l : Lock) :
    (s.setLedLock l).afterTransport = s.afterTransport := rfl

@[simp] theorem setLedLock_timerAnswer (s : State) (l : Lock) :
    (s.setLedLock l).timerAnswer = s.timerAnswer := rfl

@[simp] theorem setLedLock_afterTimer (s : State) (l : Lock) :
    (s.setLedLock l).afterTimer = s.afterTimer := rfl

@[simp] theorem setLedLock_led_isOpen (s : State) (l : Lock) :
    (s.setLedLock l).led.isOpen = s.led.isOpen := rfl

@[simp] theorem setLedLock_led_lights (s : State) (l : Lock) :
    (s.setLedLock l).led.lights = s.led.lights := rfl

@[simp] theorem setLedLock_led_lock (s : State) (l : Lock) :
    (s.setLedLock l).led.lock = l := rfl

@[simp] theorem setLedLock_led_scratch (s : State) (l : Lock) :
    (s.setLedLock l).led.scratch = s.led.scratch := rfl

@[simp] theorem setLedLock_led_xmitLog (s : State) (l : Lock) :
    (s.setLedLock l).led.xmitLog = s.led.xmitLog := rfl

@[simp] theorem setLedLock_buz (s : State) (l : Lock) :
    (s.setLedLock l).buz = s.buz := rfl

/-! ### `setBuzLock` -/

@[simp] theorem setBuzLock_params (s : State) (l : Lock) :
    (s.setBuzLock l).params = s.params := rfl

@[simp] theorem setBuzLock_marks (s : State) (l : Lock) :
    (s.setBuzLock l).marks = s.marks := rfl

@[simp] theorem setBuzLock_cur (s : State) (l : Lock) :
    (s.setBuzLock l).cur = s.cur := rfl

@[simp] theorem setBuzLock_sched (s : State) (l : Lock) :
    (s.setBuzLock l).sched = s.sched := rfl

@[simp] theorem setBuzLock_env (s : State) (l : Lock) :
    (s.setBuzLock l).env = s.env := rfl

@[simp] theorem setBuzLock_callers (s : State) (l : Lock) :
    (s.setBuzLock l).callers = s.callers := rfl

@[simp] theorem setBuzLock_caller (s : State) (l : Lock) (d : Nat) :
    (s.setBuzLock l).caller d = s.caller d := rfl

@[simp] theorem setBuzLock_phase (s : State) (l : Lock) (d : Nat) :
    (s.setBuzLock l).phase d = s.phase d := rfl

@[simp] theorem setBuzLock_transportAnswer (s : State) (l : Lock) :
    (s.setBuzLock l).transportAnswer = s.transportAnswer := rfl

@[simp] theorem setBuzLock_afterTransport (s : State) (l : Lock) :
    (s.setBuzLock l).afterTransport = s.afterTransport := rfl

@[simp] theorem setBuzLock_timerAnswer (s : State) (l : Lock) :
    (s.setBuzLock l).timerAnswer = s.timerAnswer := rfl

@[simp] theorem setBuzLock_afterTimer (s : State) (l : Lock) :
    (s.setBuzLock l).afterTimer = s.afterTimer := rfl

@[simp] theorem setBuzLock_led (s : State) (l : Lock) :
    (s.setBuzLock l).led = s.led := rfl

@[simp] theorem setBuzLock_buz_isOpen (s : State) (l : Lock) :
    (s.setBuzLock l).buz.isOpen = s.buz.isOpen := rfl

@[simp] theorem setBuzLock_buz_tone (s : State) (l : Lock) :
    (s.setBuzLock l).buz.tone = s.buz.tone := rfl

@[simp] theorem setBuzLock_buz_lock (s : State) (l : Lock) :
    (s.setBuzLock l).buz.lock = l := rfl

@[simp] theorem setBuzLock_buz_timerLog (s : State) (l : Lock) :
    (s.setBuzLock l).buz.timerLog = s.buz.timerLog := rfl

/-! ### `setLight` -/

@[simp] theorem setLight_params (s : State) (i : LightIndex) (v : Rgb) :
    (s.setLight i v).params = s.params := rfl

@[simp] theorem setLight_marks (s : State) (i : LightIndex) (v : Rgb) :
    (s.setLight i v).marks = s.marks := rfl

@[simp] theorem setLight_cur (s : State) (i : LightIndex) (v : Rgb) :
    (s.setLight i v).cur = s.cur := rfl

@[simp] theorem setLight_sched (s : State) (i : LightIndex) (v : Rgb) :
    (s.setLight i v).sched = s.sched := rfl

@[simp] theorem setLight_env (s : State) (i : LightIndex) (v : Rgb) :
    (s.setLight i v).env = s.env := rfl

@[simp] theorem setLight_callers (s : State) (i : LightIndex) (v : Rgb) :
    (s.setLight i v).callers = s.callers := rfl

@[simp] theorem setLight_caller (s : State) (i : LightIndex) (v : Rgb) (d : Nat) :
    (s.setLight i v).caller d = s.caller d := rfl

@[simp] theorem setLight_phase (s : State) (i : LightIndex) (v : Rgb) (d : Nat) :
    (s.setLight i v).phase d = s.phase d := rfl

@[simp] theorem setLight_transportAnswer (s : State) (i : LightIndex) (v : Rgb) :
    (s.setLight i v).transportAnswer = s.transportAnswer := rfl

@[simp] theorem setLight_afterTransport (s : State) (i : LightIndex) (v : Rgb) :
    (s.setLight i v).afterTransport = s.afterTransport := rfl

@[simp] theorem setLight_timerAnswer (s : State) (i : LightIndex) (v : Rgb) :
    (s.setLight i v).timerAnswer = s.timerAnswer := rfl

@[simp] theorem setLight_afterTimer (s : State) (i : LightIndex) (v : Rgb) :
    (s.setLight i v).afterTimer = s.afterTimer := rfl

@[simp] theorem setLight_led_isOpen (s : State) (i : LightIndex) (v : Rgb) :
    (s.setLight i v).led.isOpen = s.led.isOpen := rfl

@[simp] theorem setLight_led_lights (s : State) (i : LightIndex) (v : Rgb) :
    (s.setLight i v).led.lights = s.led.lights.set i v := rfl

@[simp] theorem setLight_led_lock (s : State) (i : LightIndex) (v : Rgb) :
    (s.setLight i v).led.lock = s.led.lock := rfl

@[simp] theorem setLight_led_scratch (s : State) (i : LightIndex) (v : Rgb) :
    (s.setLight i v).led.scratch = s.led.scratch := rfl

@[simp] theorem setLight_led_xmitLog (s : State) (i : LightIndex) (v : Rgb) :
    (s.setLight i v).led.xmitLog = s.led.xmitLog := rfl

@[simp] theorem setLight_buz (s : State) (i : LightIndex) (v : Rgb) :
    (s.setLight i v).buz = s.buz := rfl

/-! ### `setScratch` -/

@[simp] theorem setScratch_params (s : State) (x : Scratch) :
    (s.setScratch x).params = s.params := rfl

@[simp] theorem setScratch_marks (s : State) (x : Scratch) :
    (s.setScratch x).marks = s.marks := rfl

@[simp] theorem setScratch_cur (s : State) (x : Scratch) :
    (s.setScratch x).cur = s.cur := rfl

@[simp] theorem setScratch_sched (s : State) (x : Scratch) :
    (s.setScratch x).sched = s.sched := rfl

@[simp] theorem setScratch_env (s : State) (x : Scratch) :
    (s.setScratch x).env = s.env := rfl

@[simp] theorem setScratch_callers (s : State) (x : Scratch) :
    (s.setScratch x).callers = s.callers := rfl

@[simp] theorem setScratch_caller (s : State) (x : Scratch) (d : Nat) :
    (s.setScratch x).caller d = s.caller d := rfl

@[simp] theorem setScratch_phase (s : State) (x : Scratch) (d : Nat) :
    (s.setScratch x).phase d = s.phase d := rfl

@[simp] theorem setScratch_transportAnswer (s : State) (x : Scratch) :
    (s.setScratch x).transportAnswer = s.transportAnswer := rfl

@[simp] theorem setScratch_afterTransport (s : State) (x : Scratch) :
    (s.setScratch x).afterTransport = s.afterTransport := rfl

@[simp] theorem setScratch_timerAnswer (s : State) (x : Scratch) :
    (s.setScratch x).timerAnswer = s.timerAnswer := rfl

@[simp] theorem setScratch_afterTimer (s : State) (x : Scratch) :
    (s.setScratch x).afterTimer = s.afterTimer := rfl

@[simp] theorem setScratch_led_isOpen (s : State) (x : Scratch) :
    (s.setScratch x).led.isOpen = s.led.isOpen := rfl

@[simp] theorem setScratch_led_lights (s : State) (x : Scratch) :
    (s.setScratch x).led.lights = s.led.lights := rfl

@[simp] theorem setScratch_led_lock (s : State) (x : Scratch) :
    (s.setScratch x).led.lock = s.led.lock := rfl

@[simp] theorem setScratch_led_scratch (s : State) (x : Scratch) :
    (s.setScratch x).led.scratch = x := rfl

@[simp] theorem setScratch_led_xmitLog (s : State) (x : Scratch) :
    (s.setScratch x).led.xmitLog = s.led.xmitLog := rfl

@[simp] theorem setScratch_buz (s : State) (x : Scratch) :
    (s.setScratch x).buz = s.buz := rfl

/-! ### `commitStaged` -/

@[simp] theorem commitStaged_params (s : State) :
    (s.commitStaged).params = s.params := rfl

@[simp] theorem commitStaged_marks (s : State) :
    (s.commitStaged).marks = s.marks := rfl

@[simp] theorem commitStaged_cur (s : State) :
    (s.commitStaged).cur = s.cur := rfl

@[simp] theorem commitStaged_sched (s : State) :
    (s.commitStaged).sched = s.sched := rfl

@[simp] theorem commitStaged_env (s : State) :
    (s.commitStaged).env = s.env := rfl

@[simp] theorem commitStaged_callers (s : State) :
    (s.commitStaged).callers = s.callers := rfl

@[simp] theorem commitStaged_caller (s : State) (d : Nat) :
    (s.commitStaged).caller d = s.caller d := rfl

@[simp] theorem commitStaged_phase (s : State) (d : Nat) :
    (s.commitStaged).phase d = s.phase d := rfl

@[simp] theorem commitStaged_transportAnswer (s : State) :
    (s.commitStaged).transportAnswer = s.transportAnswer := rfl

@[simp] theorem commitStaged_afterTransport (s : State) :
    (s.commitStaged).afterTransport = s.afterTransport := rfl

@[simp] theorem commitStaged_timerAnswer (s : State) :
    (s.commitStaged).timerAnswer = s.timerAnswer := rfl

@[simp] theorem commitStaged_afterTimer (s : State) :
    (s.commitStaged).afterTimer = s.afterTimer := rfl

@[simp] theorem commitStaged_led_isOpen (s : State) :
    (s.commitStaged).led.isOpen = s.led.isOpen := rfl

@[simp] theorem commitStaged_led_lights (s : State) :
    (s.commitStaged).led.lights = writeLights s.led.lights s.led.scratch.staged := rfl

@[simp] theorem commitStaged_led_lock (s : State) :
    (s.commitStaged).led.lock = s.led.lock := rfl

@[simp] theorem commitStaged_led_scratch (s : State) :
    (s.commitStaged).led.scratch = { s.led.scratch with staged := [] } := rfl

@[simp] theorem commitStaged_led_xmitLog (s : State) :
    (s.commitStaged).led.xmitLog = s.led.xmitLog := rfl

@[simp] theorem commitStaged_buz (s : State) :
    (s.commitStaged).buz = s.buz := rfl

/-! ### `transmitFrame` -/

@[simp] theorem transmitFrame_params (s : State) (f : List Byte) :
    (s.transmitFrame f).params = s.params := rfl

@[simp] theorem transmitFrame_marks (s : State) (f : List Byte) :
    (s.transmitFrame f).marks = s.marks := rfl

@[simp] theorem transmitFrame_cur (s : State) (f : List Byte) :
    (s.transmitFrame f).cur = s.cur := rfl

@[simp] theorem transmitFrame_sched (s : State) (f : List Byte) :
    (s.transmitFrame f).sched = s.sched := rfl

@[simp] theorem transmitFrame_env (s : State) (f : List Byte) :
    (s.transmitFrame f).env = s.afterTransport := rfl

@[simp] theorem transmitFrame_callers (s : State) (f : List Byte) :
    (s.transmitFrame f).callers = s.callers := rfl

@[simp] theorem transmitFrame_caller (s : State) (f : List Byte) (d : Nat) :
    (s.transmitFrame f).caller d = s.caller d := rfl

@[simp] theorem transmitFrame_phase (s : State) (f : List Byte) (d : Nat) :
    (s.transmitFrame f).phase d = s.phase d := rfl

@[simp] theorem transmitFrame_led_isOpen (s : State) (f : List Byte) :
    (s.transmitFrame f).led.isOpen = s.led.isOpen := rfl

@[simp] theorem transmitFrame_led_lights (s : State) (f : List Byte) :
    (s.transmitFrame f).led.lights = s.led.lights := rfl

@[simp] theorem transmitFrame_led_lock (s : State) (f : List Byte) :
    (s.transmitFrame f).led.lock = s.led.lock := rfl

@[simp] theorem transmitFrame_led_scratch (s : State) (f : List Byte) :
    (s.transmitFrame f).led.scratch = { s.led.scratch with answer := some s.transportAnswer } := rfl

@[simp] theorem transmitFrame_led_xmitLog (s : State) (f : List Byte) :
    (s.transmitFrame f).led.xmitLog = s.led.xmitLog ++ [{ frame := f, answer := s.transportAnswer }] := rfl

@[simp] theorem transmitFrame_buz (s : State) (f : List Byte) :
    (s.transmitFrame f).buz = s.buz := rfl

/-! ### `timerCall` -/

@[simp] theorem timerCall_params (s : State) (k : TimerCall) :
    (s.timerCall k).params = s.params := rfl

@[simp] theorem timerCall_marks (s : State) (k : TimerCall) :
    (s.timerCall k).marks = { s.marks with timerSinkFault := s.marks.timerSinkFault || decide (s.timerAnswer = .fail) } := rfl

@[simp] theorem timerCall_cur (s : State) (k : TimerCall) :
    (s.timerCall k).cur = s.cur := rfl

@[simp] theorem timerCall_sched (s : State) (k : TimerCall) :
    (s.timerCall k).sched = s.sched := rfl

@[simp] theorem timerCall_env (s : State) (k : TimerCall) :
    (s.timerCall k).env = s.afterTimer := rfl

@[simp] theorem timerCall_callers (s : State) (k : TimerCall) :
    (s.timerCall k).callers = s.callers := rfl

@[simp] theorem timerCall_caller (s : State) (k : TimerCall) (d : Nat) :
    (s.timerCall k).caller d = s.caller d := rfl

@[simp] theorem timerCall_phase (s : State) (k : TimerCall) (d : Nat) :
    (s.timerCall k).phase d = s.phase d := rfl

@[simp] theorem timerCall_led (s : State) (k : TimerCall) :
    (s.timerCall k).led = s.led := rfl

@[simp] theorem timerCall_buz_isOpen (s : State) (k : TimerCall) :
    (s.timerCall k).buz.isOpen = s.buz.isOpen := rfl

@[simp] theorem timerCall_buz_tone (s : State) (k : TimerCall) :
    (s.timerCall k).buz.tone = s.buz.tone := rfl

@[simp] theorem timerCall_buz_lock (s : State) (k : TimerCall) :
    (s.timerCall k).buz.lock = s.buz.lock := rfl

@[simp] theorem timerCall_buz_timerLog (s : State) (k : TimerCall) :
    (s.timerCall k).buz.timerLog = s.buz.timerLog ++ [k] := rfl

/-! ### `setTone` -/

@[simp] theorem setTone_params (s : State) (t : ToneState) :
    (s.setTone t).params = s.params := rfl

@[simp] theorem setTone_marks (s : State) (t : ToneState) :
    (s.setTone t).marks = s.marks := rfl

@[simp] theorem setTone_cur (s : State) (t : ToneState) :
    (s.setTone t).cur = s.cur := rfl

@[simp] theorem setTone_sched (s : State) (t : ToneState) :
    (s.setTone t).sched = s.sched := rfl

@[simp] theorem setTone_env (s : State) (t : ToneState) :
    (s.setTone t).env = s.env := rfl

@[simp] theorem setTone_callers (s : State) (t : ToneState) :
    (s.setTone t).callers = s.callers := rfl

@[simp] theorem setTone_caller (s : State) (t : ToneState) (d : Nat) :
    (s.setTone t).caller d = s.caller d := rfl

@[simp] theorem setTone_phase (s : State) (t : ToneState) (d : Nat) :
    (s.setTone t).phase d = s.phase d := rfl

@[simp] theorem setTone_transportAnswer (s : State) (t : ToneState) :
    (s.setTone t).transportAnswer = s.transportAnswer := rfl

@[simp] theorem setTone_afterTransport (s : State) (t : ToneState) :
    (s.setTone t).afterTransport = s.afterTransport := rfl

@[simp] theorem setTone_timerAnswer (s : State) (t : ToneState) :
    (s.setTone t).timerAnswer = s.timerAnswer := rfl

@[simp] theorem setTone_afterTimer (s : State) (t : ToneState) :
    (s.setTone t).afterTimer = s.afterTimer := rfl

@[simp] theorem setTone_led (s : State) (t : ToneState) :
    (s.setTone t).led = s.led := rfl

@[simp] theorem setTone_buz_isOpen (s : State) (t : ToneState) :
    (s.setTone t).buz.isOpen = s.buz.isOpen := rfl

@[simp] theorem setTone_buz_tone (s : State) (t : ToneState) :
    (s.setTone t).buz.tone = t := rfl

@[simp] theorem setTone_buz_lock (s : State) (t : ToneState) :
    (s.setTone t).buz.lock = s.buz.lock := rfl

@[simp] theorem setTone_buz_timerLog (s : State) (t : ToneState) :
    (s.setTone t).buz.timerLog = s.buz.timerLog := rfl

/-! ### `refuseWordSize` -/

@[simp] theorem refuseWordSize_params (s : State) :
    (s.refuseWordSize).params = s.params := rfl

@[simp] theorem refuseWordSize_marks (s : State) :
    (s.refuseWordSize).marks = { s.marks with refusedWordSize := true } := rfl

@[simp] theorem refuseWordSize_cur (s : State) :
    (s.refuseWordSize).cur = s.cur := rfl

@[simp] theorem refuseWordSize_sched (s : State) :
    (s.refuseWordSize).sched = s.sched := rfl

@[simp] theorem refuseWordSize_env (s : State) :
    (s.refuseWordSize).env = s.env := rfl

@[simp] theorem refuseWordSize_callers (s : State) :
    (s.refuseWordSize).callers = s.callers := rfl

@[simp] theorem refuseWordSize_caller (s : State) (d : Nat) :
    (s.refuseWordSize).caller d = s.caller d := rfl

@[simp] theorem refuseWordSize_phase (s : State) (d : Nat) :
    (s.refuseWordSize).phase d = s.phase d := rfl

@[simp] theorem refuseWordSize_transportAnswer (s : State) :
    (s.refuseWordSize).transportAnswer = s.transportAnswer := rfl

@[simp] theorem refuseWordSize_afterTransport (s : State) :
    (s.refuseWordSize).afterTransport = s.afterTransport := rfl

@[simp] theorem refuseWordSize_timerAnswer (s : State) :
    (s.refuseWordSize).timerAnswer = s.timerAnswer := rfl

@[simp] theorem refuseWordSize_afterTimer (s : State) :
    (s.refuseWordSize).afterTimer = s.afterTimer := rfl

@[simp] theorem refuseWordSize_led (s : State) :
    (s.refuseWordSize).led = s.led := rfl

@[simp] theorem refuseWordSize_buz (s : State) :
    (s.refuseWordSize).buz = s.buz := rfl

/-! ### `closeUnits` -/

@[simp] theorem closeUnits_params (s : State) :
    (s.closeUnits).params = s.params := rfl

@[simp] theorem closeUnits_marks (s : State) :
    (s.closeUnits).marks = s.marks := rfl

@[simp] theorem closeUnits_cur (s : State) :
    (s.closeUnits).cur = s.cur := rfl

@[simp] theorem closeUnits_sched (s : State) :
    (s.closeUnits).sched = s.sched := rfl

@[simp] theorem closeUnits_env (s : State) :
    (s.closeUnits).env = s.env := rfl

@[simp] theorem closeUnits_callers (s : State) :
    (s.closeUnits).callers = s.callers := rfl

@[simp] theorem closeUnits_caller (s : State) (d : Nat) :
    (s.closeUnits).caller d = s.caller d := rfl

@[simp] theorem closeUnits_phase (s : State) (d : Nat) :
    (s.closeUnits).phase d = s.phase d := rfl

@[simp] theorem closeUnits_transportAnswer (s : State) :
    (s.closeUnits).transportAnswer = s.transportAnswer := rfl

@[simp] theorem closeUnits_afterTransport (s : State) :
    (s.closeUnits).afterTransport = s.afterTransport := rfl

@[simp] theorem closeUnits_timerAnswer (s : State) :
    (s.closeUnits).timerAnswer = s.timerAnswer := rfl

@[simp] theorem closeUnits_afterTimer (s : State) :
    (s.closeUnits).afterTimer = s.afterTimer := rfl

@[simp] theorem closeUnits_led (s : State) :
    (s.closeUnits).led = s.led.closed := rfl

@[simp] theorem closeUnits_buz (s : State) :
    (s.closeUnits).buz = s.buz.closed := rfl

/-! ### `openUnits` -/

@[simp] theorem openUnits_params (s : State) :
    (s.openUnits).params = s.params := rfl

@[simp] theorem openUnits_marks (s : State) :
    (s.openUnits).marks = {} := rfl

@[simp] theorem openUnits_cur (s : State) :
    (s.openUnits).cur = s.cur := rfl

@[simp] theorem openUnits_sched (s : State) :
    (s.openUnits).sched = s.sched := rfl

@[simp] theorem openUnits_env (s : State) :
    (s.openUnits).env = s.env := rfl

@[simp] theorem openUnits_callers (s : State) :
    (s.openUnits).callers = idleAll s.callers := rfl

@[simp] theorem openUnits_transportAnswer (s : State) :
    (s.openUnits).transportAnswer = s.transportAnswer := rfl

@[simp] theorem openUnits_afterTransport (s : State) :
    (s.openUnits).afterTransport = s.afterTransport := rfl

@[simp] theorem openUnits_timerAnswer (s : State) :
    (s.openUnits).timerAnswer = s.timerAnswer := rfl

@[simp] theorem openUnits_afterTimer (s : State) :
    (s.openUnits).afterTimer = s.afterTimer := rfl

@[simp] theorem openUnits_led (s : State) :
    (s.openUnits).led = .opened := rfl

@[simp] theorem openUnits_buz (s : State) :
    (s.openUnits).buz = .opened := rfl

end Sys2Proof.Machine
end

