-- ==== Sys2Proof/Laws/Callers.lean ====
section
/-!
SUPPORT. The caller table: what a read gives after a write, and that every operation keeps the canonical form.
-/

namespace Sys2Proof.Machine

/-! ### Reading after writing -/

theorem readCaller_insertCaller_same (c : Nat) (v : Caller) (m : List (Nat × Caller)) :
    readCaller (insertCaller c v m) c = v := by
  induction m with
  | nil => simp [insertCaller, readCaller]
  | cons e rest ih =>
    unfold insertCaller
    split
    · simp [readCaller]
    · split
      · simp [readCaller]
      · rename_i hne
        simp [readCaller, hne, ih]

theorem readCaller_insertCaller_other (c d : Nat) (v : Caller) (m : List (Nat × Caller)) (h : d ≠ c) :
    readCaller (insertCaller c v m) d = readCaller m d := by
  have hcd : ¬ c = d := fun e => h e.symm
  induction m with
  | nil => simp [insertCaller, readCaller, hcd]
  | cons e rest ih =>
    unfold insertCaller
    split
    · simp [readCaller, hcd]
    · split
      · rename_i heq
        have hed : ¬ e.1 = d := by rw [heq]; exact hcd
        simp [readCaller, hcd, hed]
      · simp [readCaller, ih]

theorem readCaller_filter_same (c : Nat) (m : List (Nat × Caller)) :
    readCaller (m.filter (fun e => e.1 ≠ c)) c = {} := by
  induction m with
  | nil => rfl
  | cons e rest ih =>
    by_cases he : e.1 = c
    · simpa [List.filter_cons, he] using ih
    · simpa [List.filter_cons, he, readCaller] using ih

theorem readCaller_filter_other (c d : Nat) (m : List (Nat × Caller)) (h : d ≠ c) :
    readCaller (m.filter (fun e => e.1 ≠ c)) d = readCaller m d := by
  induction m with
  | nil => rfl
  | cons e rest ih =>
    by_cases he : e.1 = c
    · have hed : ¬ e.1 = d := by rw [he]; exact fun k => h k.symm
      simpa [List.filter_cons, he, readCaller, hed, show ¬ c = d from fun k => h k.symm] using ih
    · by_cases hd : e.1 = d
      · simp [readCaller, hd, h]
      · simpa [List.filter_cons, he, readCaller, hd] using ih

/-- Reading the caller that was written gives what was written. -/
@[simp] theorem readCaller_writeCaller_same (c : Nat) (v : Caller) (m : List (Nat × Caller)) :
    readCaller (writeCaller c v m) c = v := by
  unfold writeCaller
  split
  · rename_i h; rw [h]; exact readCaller_filter_same c m
  · exact readCaller_insertCaller_same c v m

/-- Writing one caller leaves every other alone. -/
theorem readCaller_writeCaller_other (c d : Nat) (v : Caller) (m : List (Nat × Caller)) (h : d ≠ c) :
    readCaller (writeCaller c v m) d = readCaller m d := by
  unfold writeCaller
  split
  · exact readCaller_filter_other c d m h
  · exact readCaller_insertCaller_other c d v m h

theorem readCaller_eq_rest_or_mem (m : List (Nat × Caller)) (c : Nat) :
    readCaller m c = {} ∨ (c, readCaller m c) ∈ m := by
  induction m with
  | nil => exact .inl rfl
  | cons e rest ih =>
    by_cases he : e.1 = c
    · right; subst he; simp [readCaller]
    · rcases ih with ih | ih
      · left; simpa [readCaller, he] using ih
      · right; simp [readCaller, he, ih]

/-- A caller above every listed one is at rest. -/
theorem readCaller_of_forall_lt (m : List (Nat × Caller)) (c : Nat) (h : ∀ e ∈ m, e.1 < c) :
    readCaller m c = {} := by
  rcases readCaller_eq_rest_or_mem m c with r | r
  · exact r
  · exact absurd (h _ r) (Nat.lt_irrefl c)

theorem lt_freshCaller (m : List (Nat × Caller)) : ∀ e ∈ m, e.1 < freshCaller m := by
  induction m with
  | nil => simp
  | cons a rest ih =>
    intro e he
    simp only [freshCaller, List.foldr_cons] at *
    rcases List.mem_cons.mp he with rfl | he
    · omega
    · have := ih e he; omega

@[simp] theorem readCaller_freshCaller (m : List (Nat × Caller)) : readCaller m (freshCaller m) = {} :=
  readCaller_of_forall_lt m _ (lt_freshCaller m)

/-! ### The canonical form -/

theorem mem_insertCaller {c : Nat} {v : Caller} {m : List (Nat × Caller)} {e : Nat × Caller}
    (h : e ∈ insertCaller c v m) : e = (c, v) ∨ e ∈ m := by
  induction m with
  | nil => simpa [insertCaller] using h
  | cons a rest ih =>
    unfold insertCaller at h
    split at h
    · simpa using h
    · split at h
      · rcases List.mem_cons.mp h with h | h
        · exact .inl h
        · exact .inr (List.mem_cons_of_mem _ h)
      · rcases List.mem_cons.mp h with h | h
        · exact .inr (h ▸ List.mem_cons_self)
        · exact (ih h).imp id (List.mem_cons_of_mem _)

theorem pairwise_insertCaller (c : Nat) (v : Caller) (m : List (Nat × Caller))
    (h : m.Pairwise (fun a b => a.1 < b.1)) : (insertCaller c v m).Pairwise (fun a b => a.1 < b.1) := by
  induction m with
  | nil => simp [insertCaller]
  | cons a rest ih =>
    have ha := List.pairwise_cons.mp h
    unfold insertCaller
    split
    · rename_i hlt
      refine List.pairwise_cons.mpr ⟨?_, h⟩
      intro b hb
      rcases List.mem_cons.mp hb with rfl | hb
      · exact hlt
      · exact Nat.lt_trans hlt (ha.1 b hb)
    · split
      · rename_i heq
        exact List.pairwise_cons.mpr ⟨fun b hb => heq ▸ ha.1 b hb, ha.2⟩
      · rename_i hnlt hne
        refine List.pairwise_cons.mpr ⟨?_, ih ha.2⟩
        intro b hb
        rcases mem_insertCaller hb with rfl | hb
        · show a.1 < c
          omega
        · exact ha.1 b hb

/-- Writing a caller keeps the canonical form. -/
theorem CallersWf.write {m : List (Nat × Caller)} (h : CallersWf m) (c : Nat) (v : Caller) :
    CallersWf (writeCaller c v m) := by
  unfold writeCaller
  split
  · exact ⟨h.1.sublist List.filter_sublist, fun e he => h.2 e (List.mem_filter.mp he).1⟩
  · rename_i hv
    refine ⟨pairwise_insertCaller c v m h.1, fun e he => ?_⟩
    rcases mem_insertCaller he with rfl | he
    · exact hv
    · exact h.2 e he

/-- Setting every phase to `Idle` keeps the canonical form. -/
theorem CallersWf.idleAll {m : List (Nat × Caller)} (h : CallersWf m) : CallersWf (idleAll m) := by
  refine ⟨?_, fun e he => by simpa using (List.mem_filter.mp he).2⟩
  refine List.Pairwise.sublist List.filter_sublist ?_
  exact List.pairwise_map.mpr (h.1.imp id)

/-- Reset's table has the canonical form. -/
theorem CallersWf.reset : CallersWf State.reset.callers := ⟨List.Pairwise.nil, by simp [State.reset]⟩

/-- After `idleAll` every caller is idle, with its operations and its results as before. -/
theorem readCaller_idleAll {m : List (Nat × Caller)} (h : CallersWf m) (c : Nat) :
    readCaller (Machine.idleAll m) c = { readCaller m c with phase := .idle } := by
  induction m with
  | nil => rfl
  | cons e rest ih =>
    have hp := List.pairwise_cons.mp h.1
    have hrest : CallersWf rest := ⟨hp.2, fun a ha => h.2 a (List.mem_cons_of_mem _ ha)⟩
    have ih := ih hrest
    by_cases he : e.1 = c
    · have hnone : readCaller rest c = {} := by
        rcases readCaller_eq_rest_or_mem rest c with r | r
        · exact r
        · have := hp.1 _ r; simp [he] at this
      by_cases hz : ({ e.2 with phase := .idle } : Caller) = {}
      · have hz' : e.2.ops = [] ∧ e.2.results = [] := by simpa using hz
        simp only [Machine.idleAll, List.map_cons, List.filter_cons, hz] at *
        rw [hnone] at ih
        simpa [readCaller, he, hz'] using ih
      · simp [Machine.idleAll, hz, readCaller, he]
    · by_cases hz : ({ e.2 with phase := .idle } : Caller) = {}
      · simp only [Machine.idleAll, List.map_cons, List.filter_cons, hz] at *
        simpa [readCaller, he] using ih
      · simp only [Machine.idleAll, List.map_cons, List.filter_cons] at *
        simpa [hz, readCaller, he] using ih

/-! ### A caller of the machine after an update of the caller table -/

@[simp] theorem caller_setCaller_same (s : State) (c : Nat) (v : Caller) : (s.setCaller c v).caller c = v :=
  readCaller_writeCaller_same c v s.callers

theorem caller_setCaller_other (s : State) (c d : Nat) (v : Caller) (h : d ≠ c) :
    (s.setCaller c v).caller d = s.caller d :=
  readCaller_writeCaller_other c d v s.callers h

@[simp] theorem phase_setCaller_same (s : State) (c : Nat) (v : Caller) : (s.setCaller c v).phase c = v.phase := by
  simp [State.phase]

theorem phase_setCaller_other (s : State) (c d : Nat) (v : Caller) (h : d ≠ c) :
    (s.setCaller c v).phase d = s.phase d := by
  simp [State.phase, caller_setCaller_other s c d v h]

@[simp] theorem caller_setPhase_same (s : State) (c : Nat) (p : Phase) :
    (s.setPhase c p).caller c = { s.caller c with phase := p } :=
  caller_setCaller_same s c _

theorem caller_setPhase_other (s : State) (c d : Nat) (p : Phase) (h : d ≠ c) :
    (s.setPhase c p).caller d = s.caller d :=
  caller_setCaller_other s c d _ h

@[simp] theorem phase_setPhase_same (s : State) (c : Nat) (p : Phase) : (s.setPhase c p).phase c = p := by
  simp [State.phase]

theorem phase_setPhase_other (s : State) (c d : Nat) (p : Phase) (h : d ≠ c) :
    (s.setPhase c p).phase d = s.phase d :=
  phase_setCaller_other s c d _ h

@[simp] theorem caller_endOp_same (s : State) (c : Nat) (e : OpOutcome) :
    (s.endOp c e).caller c = { s.caller c with phase := .idle, results := (s.caller c).results ++ [e] } :=
  caller_setCaller_same s c _

theorem caller_endOp_other (s : State) (c d : Nat) (e : OpOutcome) (h : d ≠ c) :
    (s.endOp c e).caller d = s.caller d :=
  caller_setCaller_other s c d _ h

@[simp] theorem phase_endOp_same (s : State) (c : Nat) (e : OpOutcome) : (s.endOp c e).phase c = .idle := by
  simp [State.phase]

theorem phase_endOp_other (s : State) (c d : Nat) (e : OpOutcome) (h : d ≠ c) :
    (s.endOp c e).phase d = s.phase d :=
  phase_setCaller_other s c d _ h

/-- The machine finds every caller idle exactly when each phase is `Idle` (for a table in canonical form). -/
theorem allIdle_phase {s : State} (h : s.allIdle = true) (c : Nat) : s.phase c = .idle := by
  rcases readCaller_eq_rest_or_mem s.callers c with r | r
  · simp [State.phase, State.caller, r]
  · have := List.all_eq_true.mp h _ r
    simpa [State.phase, State.caller] using this

theorem allIdle_of_forall {s : State} (hwf : CallersWf s.callers) (h : ∀ c, s.phase c = .idle) : s.allIdle = true := by
  refine List.all_eq_true.mpr fun e he => ?_
  have hread : ∀ m : List (Nat × Caller), m.Pairwise (fun a b => a.1 < b.1) → e ∈ m → readCaller m e.1 = e.2 := by
    intro m
    induction m with
    | nil => simp
    | cons a rest ih =>
      intro hp hm
      have hp := List.pairwise_cons.mp hp
      rcases List.mem_cons.mp hm with rfl | hm
      · simp [readCaller]
      · have : ¬ a.1 = e.1 := fun k => absurd (hp.1 e hm) (by omega)
        simp [readCaller, this, ih hp.2 hm]
  have := h e.1
  simp only [State.phase, State.caller, hread _ hwf.1 he] at this
  simpa using this

end Sys2Proof.Machine
end

