-- ==== Sys2Proof/Laws/Decode.lean ====
section
/-!
SUPPORT. The small lemmas of the formats: searching for a byte, hex digits, one entry, and the WireFrame's length.
-/

namespace Sys2Proof

/-! ### Searching for a byte -/

theorem findByte_eq_some_iff (b : Byte) (text : List Byte) (s k : Nat) :
    findByte b text s = some k ↔
      s ≤ k ∧ text[k]? = some b ∧ ∀ j, s ≤ j → j < k → text[j]? ≠ some b := by
  unfold findByte
  rw [Option.map_eq_some_iff]
  constructor
  · rintro ⟨n, hn, rfl⟩
    rw [List.findIdx?_eq_some_iff_getElem] at hn
    obtain ⟨hlt, hb, hmin⟩ := hn
    have hlt' : s + n < text.length := by simp at hlt; omega
    refine ⟨Nat.le_add_right s n, ?_, fun j hj hjn => ?_⟩
    · simpa [List.getElem?_eq_getElem hlt'] using hb
    · have hj' : j - s < n := by omega
      have := hmin (j - s) hj'
      have hjl : j < text.length := by omega
      have hidx : s + (j - s) = j := by omega
      simpa [List.getElem?_eq_getElem hjl, hidx] using this
  · rintro ⟨hle, hk, hmin⟩
    obtain ⟨hkl, hk⟩ := List.getElem?_eq_some_iff.mp hk
    refine ⟨k - s, ?_, by omega⟩
    rw [List.findIdx?_eq_some_iff_getElem]
    have hidx : s + (k - s) = k := by omega
    refine ⟨by simp; omega, by simp [hidx, hk], fun j hj => ?_⟩
    have := hmin (s + j) (by omega) (by omega)
    have hjl : s + j < text.length := by omega
    simpa [List.getElem?_eq_getElem hjl] using this

theorem findByte_eq_none_iff (b : Byte) (text : List Byte) (s : Nat) :
    findByte b text s = none ↔ ∀ k, s ≤ k → text[k]? ≠ some b := by
  unfold findByte
  rw [Option.map_eq_none_iff, List.findIdx?_eq_none_iff]
  constructor
  · intro h k hk hb
    obtain ⟨hkl, hb⟩ := List.getElem?_eq_some_iff.mp hb
    have hmem : b ∈ text.drop s := by
      rw [List.mem_iff_getElem]
      exact ⟨k - s, by simp; omega, by simpa [show s + (k - s) = k by omega] using hb⟩
    simpa using h b hmem
  · intro h x hx
    obtain ⟨n, hn, rfl⟩ := List.mem_iff_getElem.mp hx
    have hnl : s + n < text.length := by simp at hn; omega
    have := h (s + n) (Nat.le_add_right s n)
    simpa [List.getElem?_eq_getElem hnl] using this

theorem findByte_lt {b : Byte} {text : List Byte} {s k : Nat} (h : findByte b text s = some k) : k < text.length :=
  (List.getElem?_eq_some_iff.mp ((findByte_eq_some_iff b text s k).mp h).2.1).1

/-! ### Digits -/

@[simp] theorem hexDigit_hexText (h : BitVec 4) : hexDigit? (hexText h) = some h := by
  revert h; decide

theorem colourField_eq_some_length {bs : List Byte} {v : Rgb} (h : colourField? bs = some v) : bs.length = 6 := by
  unfold colourField? at h
  split at h
  · rfl
  · cases h

@[simp] theorem length_colourText (v : Rgb) : (colourText v).length = 6 := rfl

/-! ### One entry -/

/-- What a decoded entry says of the text (R102 to R106). -/
theorem decodeEntry_ok {p : Params} {text : List Byte} {pos : Nat} {d : Entry} (h : decodeEntry p text pos = .ok d) :
    ∃ c, findByte colon text pos = some c ∧ (indexField text pos c).length ≤ p.indexMaxChars ∧
      decimalValue? (indexField text pos c) = some d.index.val ∧
      colourField? ((text.drop (c + 1)).take 6) = some d.rgb ∧ d.stop = c + 7 := by
  unfold decodeEntry at h
  split at h
  · cases h
  · rename_i c hc
    simp only at h
    split at h
    · cases h
    · rename_i hlen
      split at h
      · cases h
      · rename_i i hi
        split at h
        · rename_i hlt
          split at h
          · cases h
          · rename_i v hv
            cases h
            exact ⟨c, hc, Nat.le_of_not_lt hlen, hi, hv, rfl⟩
        · cases h

/-- A decoded entry ends inside the text, at least 7 bytes after its start. -/
theorem decodeEntry_ok_stop {p : Params} {text : List Byte} {pos : Nat} {d : Entry}
    (h : decodeEntry p text pos = .ok d) : pos + 7 ≤ d.stop ∧ d.stop ≤ text.length := by
  obtain ⟨c, hc, -, -, hv, hstop⟩ := decodeEntry_ok h
  have h1 := ((findByte_eq_some_iff _ _ _ _).mp hc).1
  have h2 := colourField_eq_some_length hv
  simp at h2
  omega

/-- The next entry starts after the one before it ends, with a comma between (R106). -/
theorem nextEntry_some {p : Params} {text : List Byte} {e q : Nat} (h : nextEntry p text e = some q) :
    e < q ∧ q ≤ text.length ∧ text[q - 1]? = some comma := by
  unfold nextEntry at h
  split at h
  · obtain ⟨m, hm, rfl⟩ := Option.map_eq_some_iff.mp h
    have h1 := (findByte_eq_some_iff _ _ _ _).mp hm
    have h2 := findByte_lt hm
    exact ⟨by omega, by omega, by simpa using h1.2.1⟩
  · split at h
    · rename_i hc
      cases h
      have := (List.getElem?_eq_some_iff.mp hc).1
      exact ⟨by omega, by omega, by simpa using hc⟩
    · cases h

/-! ### The WireFrame -/

@[simp] theorem length_encodeFrame (lights : LightArray) : (encodeFrame lights).length = 36 := by
  obtain ⟨⟨l⟩, hl⟩ := lights
  simp [encodeFrame, lightGroup, List.length_flatMap, Config.startLen, Config.endLen]
  simp at hl
  omega

/-! ### Table words -/

@[simp] theorem length_wordBytes (n w : Nat) : (wordBytes n w).length = n := by
  induction n generalizing w with
  | zero => rfl
  | succ n ih => simp [wordBytes, ih]

/-- Bytes that are not four in number have no value in either order (R55). -/
theorem assembleFreq_eq_none (o : ByteOrder) {bytes : List Byte} (h : bytes.length ≠ 4) :
    assembleFreq o bytes = none := by
  unfold assembleFreq
  split
  · simp at h
  · rfl

/-- A table word is an assembled frequency word of 32 bits, or a buzzer-port write of other than 4 bytes (log 20). -/
theorem tableWrite_cases (nbits w : Nat) :
    (nbits = 32 ∧ tableWrite nbits w = .setFrequency (BitVec.ofNat 32 w)) ∨
    (nbits ≠ 32 ∧ ∃ bytes, bytes.length ≠ 4 ∧ tableWrite nbits w = .buzzerBytes bytes) := by
  unfold tableWrite
  by_cases h : nbits = 32
  · exact .inl ⟨h, by simp [h]⟩
  · by_cases h8 : nbits % 8 = 0
    · exact .inr ⟨h, wordBytes (nbits / 8) w, by rw [length_wordBytes]; omega, by simp [h, h8]⟩
    · exact .inr ⟨h, [], by simp, by simp [h, h8]⟩

/-- What a table word decodes to depends on no parameter, the byte order among them. -/
theorem decode_tableWrite_order (p q : Params) (nbits w : Nat) :
    decode p (tableWrite nbits w) = decode q (tableWrite nbits w) := by
  rcases tableWrite_cases nbits w with ⟨-, h⟩ | ⟨-, bytes, hb, h⟩
  · rw [h]; rfl
  · simp [h, decode, assembleFreq_eq_none _ hb]

/-- A table word of any width but 32 is refused (R55). -/
theorem decodeTableWord_of_ne {nbits : Nat} (h : nbits ≠ 32) (w : Nat) : decodeTableWord nbits w = none := by
  rcases tableWrite_cases nbits w with ⟨h', -⟩ | ⟨-, bytes, hb, ht⟩
  · exact absurd h' h
  · simp [decodeTableWord, ht, decode, assembleFreq_eq_none _ hb]

end Sys2Proof
end

