-- ==== Sys2Proof/Laws/Ops.lean ====
section
/-!
SUPPORT. For each shared operation, once, everything it can do.
-/

namespace Sys2Proof.Machine

@[simp] theorem reset_phase (c : Nat) : State.reset.phase c = .idle := rfl

/-- A caller depends on the caller table alone. -/
@[simp] theorem caller_of_same_callers (s : State) (p : Params) (l : LedUnit) (b : BuzUnit) (k : Marks) (u : Nat)
    (q : List Event) (v : Env) (d : Nat) : (State.mk p l b s.callers k u q v).caller d = s.caller d := rfl

/-- A phase depends on the caller table alone. -/
@[simp] theorem phase_of_same_callers (s : State) (p : Params) (l : LedUnit) (b : BuzUnit) (k : Marks) (u : Nat)
    (q : List Event) (v : Env) (d : Nat) : (State.mk p l b s.callers k u q v).phase d = s.phase d := rfl

theorem writeLights_append (lights : LightArray) (a b : List (LightIndex × Rgb)) :
    writeLights lights (a ++ b) = writeLights (writeLights lights a) b := by
  induction a generalizing lights with
  | nil => rfl
  | cons w rest ih => simp [writeLights, ih]

/-- A register that no write names keeps its value. -/
theorem writeLights_getElem_of_not_named (lights : LightArray) (ws : List (LightIndex × Rgb)) (j : LightIndex)
    (h : ∀ w ∈ ws, w.1 ≠ j) : (writeLights lights ws)[j] = lights[j] := by
  induction ws generalizing lights with
  | nil => rfl
  | cons w rest ih =>
    have hw : w.1.val ≠ j.val := fun k => h w List.mem_cons_self (Fin.ext k)
    simp only [writeLights]
    rw [ih _ fun x hx => h x (List.mem_cons_of_mem _ hx)]
    simp [hw]

/-! ### The internal operations -/

/-- ENTRY does one of three things (R108): it fails, it writes and goes on, or it writes and ends the decode. -/
theorem entryOp_cases (text : List Byte) (pos : Nat) (s : State) :
    (∃ e, decodeEntry s.params text pos = .error e ∧ entryOp text pos s = decodeFails e s) ∨
    (∃ d q, decodeEntry s.params text pos = .ok d ∧ nextEntry s.params text d.stop = some q ∧
      entryOp text pos s = decodeGoesOn q (entryWriteOp d.index d.rgb s)) ∨
    (∃ d, decodeEntry s.params text pos = .ok d ∧ nextEntry s.params text d.stop = none ∧
      entryOp text pos s = decodeSucceeds (entryWriteOp d.index d.rgb s)) := by
  unfold entryOp
  cases hd : decodeEntry s.params text pos with
  | error e => exact .inl ⟨e, rfl, rfl⟩
  | ok d =>
    cases hn : nextEntry s.params text d.stop with
    | some q => exact .inr (.inl ⟨d, q, rfl, hn, by simp [hn]⟩)
    | none => exact .inr (.inr ⟨d, rfl, hn, by simp [hn]⟩)

/-- ENTRY_WRITE writes the register, or the staging list (R110, R111). -/
theorem entryWriteOp_eq (i : LightIndex) (v : Rgb) (s : State) :
    entryWriteOp i v s = { s with led := { s.led with
      lights := if s.params.applyAtomic then s.led.lights else s.led.lights.set i v
      scratch := if s.params.applyAtomic then { s.led.scratch with staged := s.led.scratch.staged ++ [(i, v)] }
        else s.led.scratch } } := by
  unfold entryWriteOp
  split <;> simp [State.setScratch, State.setLight, *]

/-- The status a decode ends with. -/
def statusOf : Option DecodeError → DecodeStatus
  | some e => .failed e
  | none => .succeeded

/-- The decode loop makes the writes that `parseLoop` lists, and ends as it says (R108, R110, R111). Nothing outside the
light registers and the transients changes. -/
theorem decodeLoop_spec (buf : List Byte) (fuel : Nat) (s : State)
    (hst : s.params.applyAtomic = false → s.led.scratch.staged = []) :
    ∃ x : Scratch,
      decodeLoop buf fuel s = { s with led := { s.led with
        lights :=
          if s.params.applyAtomic then
            (match (parseLoop s.params buf fuel s.led.scratch.cursor).2 with
            | some _ => s.led.lights
            | none => writeLights s.led.lights
                (s.led.scratch.staged ++ (parseLoop s.params buf fuel s.led.scratch.cursor).1))
          else writeLights s.led.lights (parseLoop s.params buf fuel s.led.scratch.cursor).1
        scratch := x } } ∧
      x.decode = statusOf (parseLoop s.params buf fuel s.led.scratch.cursor).2 := by
  induction fuel generalizing s with
  | zero =>
    refine ⟨{ s.led.scratch with decode := .failed .missingColon, staged := [] }, ?_, rfl⟩
    simp only [decodeLoop, decodeFails, State.setScratch, parseLoop, writeLights, ite_self]
  | succ n ih =>
    rcases entryOp_cases buf s.led.scratch.cursor s with ⟨e, hd, he⟩ | ⟨d, q, hd, hn, he⟩ | ⟨d, hd, hn, he⟩
    · refine ⟨{ s.led.scratch with decode := .failed e, staged := [] }, ?_, ?_⟩
      · simp [decodeLoop, he, decodeFails, State.setScratch, parseLoop, hd, writeLights]
      · simp [parseLoop, hd, statusOf]
    · have hparse : parseLoop s.params buf (n + 1) s.led.scratch.cursor =
          ((d.index, d.rgb) :: (parseLoop s.params buf n q).1, (parseLoop s.params buf n q).2) := by
        simp [parseLoop, hd, hn]
      have hloop : decodeLoop buf (n + 1) s = decodeLoop buf n (decodeGoesOn q (entryWriteOp d.index d.rgb s)) := by
        simp only [decodeLoop, he]
        simp [decodeGoesOn]
      obtain ⟨x, hx, hxs⟩ := ih (decodeGoesOn q (entryWriteOp d.index d.rgb s)) (by
        intro ha
        have ha' : s.params.applyAtomic = false := by simpa [decodeGoesOn, entryWriteOp_eq] using ha
        simpa [decodeGoesOn, entryWriteOp_eq, ha'] using hst ha')
      refine ⟨x, ?_, by simpa [decodeGoesOn, entryWriteOp_eq, hparse] using hxs⟩
      rw [hloop, hx, hparse]
      by_cases ha : s.params.applyAtomic = true
      · simp [decodeGoesOn, entryWriteOp_eq, ha, State.setScratch]
      · simp [decodeGoesOn, entryWriteOp_eq, ha, State.setScratch, writeLights]
    · have hparse : parseLoop s.params buf (n + 1) s.led.scratch.cursor = ([(d.index, d.rgb)], none) := by
        simp [parseLoop, hd, hn]
      have hloop : decodeLoop buf (n + 1) s = decodeSucceeds (entryWriteOp d.index d.rgb s) := by
        simp only [decodeLoop, he]
        simp [decodeSucceeds]
      by_cases ha : s.params.applyAtomic = true
      · refine ⟨{ s.led.scratch with decode := .succeeded, staged := [] }, ?_, by simp [hparse, statusOf]⟩
        rw [hloop, hparse]
        simp [decodeSucceeds, entryWriteOp_eq, ha, State.setScratch, State.commitStaged]
      · have ha' : s.params.applyAtomic = false := by simpa using ha
        refine ⟨{ s.led.scratch with decode := .succeeded, staged := [] }, ?_, by simp [hparse, statusOf]⟩
        rw [hloop, hparse]
        simp [decodeSucceeds, entryWriteOp_eq, ha', State.setScratch, State.commitStaged, hst ha', writeLights]

/-! ### The steps of APPLY -/

/-- LED_ACCEPT ends the operation with one of two outcomes, or the caller waits (R146). -/
theorem ledAccept_cases (c : Nat) (text : List Byte) (s : State) :
    (s.led.isOpen = false ∧ ledAccept c text s = s.endOp c .deviceUnavailable) ∨
    (s.led.isOpen = true ∧ s.params.cmdMaxLen < text.length ∧ ledAccept c text s = s.endOp c .oversizeError) ∨
    (s.led.isOpen = true ∧ text.length ≤ s.params.cmdMaxLen ∧
      ledAccept c text s = s.setPhase c (.ledWaiting text)) := by
  unfold ledAccept
  cases ho : s.led.isOpen
  · simp
  · by_cases hl : s.params.cmdMaxLen < text.length
    · simp [hl]
    · simp [hl]; omega

/-- LED_ACQUIRE takes a free lock; with the lock held nothing happens (R147). -/
theorem ledAcquire_cases (c : Nat) (buf : List Byte) (s : State) :
    (s.led.lock = .free ∧ ledAcquire c buf s = (s.setLedLock (.held c)).setPhase c (.ledHolding buf)) ∨
    (∃ d, s.led.lock = .held d ∧ ledAcquire c buf s = s) := by
  unfold ledAcquire
  cases h : s.led.lock with
  | free => exact .inl ⟨rfl, rfl⟩
  | held d => exact .inr ⟨d, rfl, rfl⟩

/-- LED_INTERRUPT ends a wait and does nothing else (R145, R206). -/
theorem ledInterrupt_cases (c : Nat) (s : State) :
    (∃ buf, s.phase c = .ledWaiting buf ∧ ledInterrupt c s = s.endOp c .interruptedError) ∨
    ((∀ buf, s.phase c ≠ .ledWaiting buf) ∧ ledInterrupt c s = s) := by
  unfold ledInterrupt
  cases s.phase c with
  | ledWaiting buf => exact .inl ⟨buf, rfl, rfl⟩
  | idle => exact .inr ⟨by simp, rfl⟩
  | ledHolding buf => exact .inr ⟨by simp, rfl⟩
  | buzHolding f => exact .inr ⟨by simp, rfl⟩

/-- LED_BODY ends with a decode error and no frame, or sends the frame (R141, R144, R148). -/
theorem ledBody_cases (c : Nat) (buf : List Byte) (s : State) :
    (∃ e, (decodeLoop buf (buf.length + 1) (s.setScratch {})).led.scratch.decode = .failed e ∧
      ledBody c buf s = finishApply c e.outcome (decodeLoop buf (buf.length + 1) (s.setScratch {}))) ∨
    ((∀ e, (decodeLoop buf (buf.length + 1) (s.setScratch {})).led.scratch.decode ≠ .failed e) ∧
      ledBody c buf s = sendFrame c (decodeLoop buf (buf.length + 1) (s.setScratch {}))) := by
  unfold ledBody
  cases h : (decodeLoop buf (buf.length + 1) (s.setScratch {})).led.scratch.decode with
  | failed e => exact .inl ⟨e, rfl, by simp [h]⟩
  | pending => exact .inr ⟨by simp, by simp [h]⟩
  | succeeded => exact .inr ⟨by simp, by simp [h]⟩

@[simp] theorem transmitOutcome_some (a : SinkAnswer) :
    transmitOutcome (some a) = if a = .fail then .transportError else .ok := by
  cases a <;> rfl

/-- What sending the frame does: one record, the body's transients gone, the lock released, the outcome returned. -/
theorem sendFrame_eq (c : Nat) (s : State) :
    sendFrame c s = ({ s with
      led := { s.led with
        lock := .free
        scratch := {}
        xmitLog := s.led.xmitLog ++ [{ frame := encodeFrame s.led.lights, answer := s.transportAnswer }] }
      env := s.afterTransport } : State).endOp c (transmitOutcome (some s.transportAnswer)) := rfl

/-- An APPLY's next step is the one its caller's phase enables (R140). -/
theorem applyStep_cases (c : Nat) (text : List Byte) (s : State) :
    (s.phase c = .idle ∧ applyStep c text s = ledAccept c text s) ∨
    (∃ buf, s.phase c = .ledWaiting buf ∧ applyStep c text s = ledAcquire c buf s) ∨
    (∃ buf, s.phase c = .ledHolding buf ∧ applyStep c text s = ledBody c buf s) ∨
    (∃ f, s.phase c = .buzHolding f ∧ applyStep c text s = s) := by
  unfold applyStep
  cases s.phase c with
  | idle => exact .inl ⟨rfl, rfl⟩
  | ledWaiting buf => exact .inr (.inl ⟨buf, rfl, rfl⟩)
  | ledHolding buf => exact .inr (.inr (.inl ⟨buf, rfl, rfl⟩))
  | buzHolding f => exact .inr (.inr (.inr ⟨f, rfl, rfl⟩))

/-! ### The steps of setFrequency -/

/-- BUZ_TRY ends the operation with one of two outcomes, or takes the lock (R162). -/
theorem buzTry_cases (c : Nat) (f : Freq) (s : State) :
    (s.buz.isOpen = false ∧ buzTry c f s = s.endOp c .deviceUnavailable) ∨
    (s.buz.isOpen = true ∧ s.buz.lock = .free ∧
      buzTry c f s = (s.setBuzLock (.held c)).setPhase c (.buzHolding f)) ∨
    (s.buz.isOpen = true ∧ (∃ d, s.buz.lock = .held d) ∧ buzTry c f s = s.endOp c .busyError) := by
  unfold buzTry
  cases s.buz.isOpen
  · exact .inl ⟨rfl, rfl⟩
  · cases h : s.buz.lock with
    | free => exact .inr (.inl ⟨rfl, rfl, rfl⟩)
    | held d => exact .inr (.inr ⟨rfl, ⟨d, rfl⟩, rfl⟩)

/-- A setFrequency's next step is the one its caller's phase enables (R160). -/
theorem setFreqStep_cases (c : Nat) (f : Freq) (s : State) :
    (s.phase c = .idle ∧ setFreqStep c f s = buzTry c f s) ∨
    (s.phase c = .buzHolding f ∧ setFreqStep c f s = buzBody c f s) ∨
    (s.phase c ≠ .idle ∧ s.phase c ≠ .buzHolding f ∧ setFreqStep c f s = s) := by
  unfold setFreqStep
  cases h : s.phase c with
  | idle => exact .inl ⟨rfl, rfl⟩
  | buzHolding g =>
    by_cases hg : g = f
    · exact .inr (.inl ⟨by rw [hg], by simp [hg]⟩)
    · exact .inr (.inr ⟨by simp, by simpa using hg, by simp [hg]⟩)
  | ledWaiting buf => exact .inr (.inr ⟨by simp, by simp, rfl⟩)
  | ledHolding buf => exact .inr (.inr ⟨by simp, by simp, rfl⟩)

/-- BUZ_BODY (R167): the ways it ends, a failed timer-sink call among them (R171). -/
theorem buzBody_cases (c : Nat) (f : Freq) (s : State) :
    (f = 0 ∧ s.timerAnswer = .fail ∧ buzBody c f s = s.timerCall .disable) ∨
    (f = 0 ∧ s.timerAnswer = .ok ∧
      buzBody c f s = finishSetFreq c .ok ((s.timerCall .disable).setTone (toneOff s.buz.tone))) ∨
    (f ≠ 0 ∧ s.params.maxPeriodNs < periodNs f ∧ buzBody c f s = finishSetFreq c .periodOverflow s) ∨
    (f ≠ 0 ∧ periodNs f ≤ s.params.maxPeriodNs ∧ s.timerAnswer = .fail ∧
      buzBody c f s = s.timerCall (.configure (dutyNs f) (periodNs f))) ∨
    (f ≠ 0 ∧ periodNs f ≤ s.params.maxPeriodNs ∧ s.timerAnswer = .ok ∧
      buzBody c f s = buzEnable c f (s.timerCall (.configure (dutyNs f) (periodNs f)))) := by
  unfold buzBody
  by_cases hf : f = 0
  · cases ha : s.timerAnswer
    · refine .inr (.inl ⟨hf, rfl, ?_⟩); simp [hf, buzOff, ha]
    · refine .inl ⟨hf, rfl, ?_⟩; simp [hf, buzOff, ha]
  · by_cases hp : s.params.maxPeriodNs < periodNs f
    · refine .inr (.inr (.inl ⟨hf, hp, ?_⟩)); rw [if_neg hf]; simp [buzTone, hp]
    · have hp' : periodNs f ≤ s.params.maxPeriodNs := by omega
      cases ha : s.timerAnswer
      · refine .inr (.inr (.inr (.inr ⟨hf, hp', rfl, ?_⟩))); rw [if_neg hf]; simp [buzTone, hp, ha]
      · refine .inr (.inr (.inr (.inl ⟨hf, hp', rfl, ?_⟩))); rw [if_neg hf]; simp [buzTone, hp, ha]

/-- `TimerEnable()` fails and leaves the mark, or the tone is on and the operation ends `OK` (R166). -/
theorem buzEnable_cases (c : Nat) (f : Freq) (s : State) :
    (s.timerAnswer = .fail ∧ buzEnable c f s = s.timerCall .enable) ∨
    (s.timerAnswer = .ok ∧ buzEnable c f s = finishSetFreq c .ok ((s.timerCall .enable).setTone (toneOn f))) := by
  unfold buzEnable
  cases s.timerAnswer
  · exact .inr ⟨rfl, rfl⟩
  · exact .inl ⟨rfl, rfl⟩

/-! ### The pseudo-operations -/

/-- `lightOn` is an `ArgError`, or the next step of its APPLY (R190, R191). -/
theorem lightOnStep_cases (c : Nat) (pins : List Nat) (colors : List (List Byte)) (s : State) :
    (s.phase c = .idle ∧ badLightArgs s.params pins colors = true ∧
      lightOnStep c pins colors s = s.endOp c .argError) ∨
    ((s.phase c ≠ .idle ∨ badLightArgs s.params pins colors = false) ∧
      lightOnStep c pins colors s = applyStep c (buildText pins colors) s) := by
  unfold lightOnStep
  by_cases h : s.phase c = .idle ∧ badLightArgs s.params pins colors = true
  · exact .inl ⟨h.1, h.2, by simp [h]⟩
  · refine .inr ⟨?_, by simp only [h, if_false]⟩
    by_cases hp : s.phase c = .idle
    · right; simpa [hp] using h
    · exact .inl hp

/-! ### Events -/

/-- A caller's turn (R215): the operation in progress takes its next step; an idle caller issues its next operation. -/
theorem turn_cases (c : Nat) (s : State) :
    (s.phase c = .idle ∧ turn c s = issue c { s with cur := c }) ∨
    (∃ buf, (s.phase c = .ledWaiting buf ∨ s.phase c = .ledHolding buf) ∧
      turn c s = exec (.apply buf) { s with cur := c }) ∨
    (∃ f, s.phase c = .buzHolding f ∧ turn c s = exec (freqInstr f) { s with cur := c }) := by
  unfold turn
  cases s.phase c with
  | idle => exact .inl ⟨rfl, rfl⟩
  | ledWaiting buf => exact .inr (.inl ⟨buf, .inl rfl, rfl⟩)
  | ledHolding buf => exact .inr (.inl ⟨buf, .inr rfl, rfl⟩)
  | buzHolding f => exact .inr (.inr ⟨f, rfl, rfl⟩)

/-- Issuing (R38, R55): nothing left to issue, an operation's first step, or a refused write. -/
theorem issue_cases (c : Nat) (s : State) :
    ((s.caller c).ops = [] ∧ issue c s = .next s) ∨
    (∃ op rest i, (s.caller c).ops = op :: rest ∧ decode s.params op = .ok i ∧
      issue c s = exec i (s.setCaller c { s.caller c with ops := rest })) ∨
    (∃ op rest, (s.caller c).ops = op :: rest ∧ decode s.params op = .error .wordSize ∧
      issue c s = .next (s.setCaller c { s.caller c with ops := rest }).refuseWordSize) := by
  unfold issue
  cases ho : (s.caller c).ops with
  | nil => exact .inl ⟨rfl, rfl⟩
  | cons op rest =>
    cases hd : decode s.params op with
    | ok i => exact .inr (.inl ⟨op, rest, i, rfl, hd, by simp [hd]⟩)
    | error e => cases e; exact .inr (.inr ⟨op, rest, rfl, hd, by simp [hd]⟩)

/-- What open can do (R230, R231). -/
theorem openBlock_cases (s : State) :
    ((s.led.isOpen = true ∨ s.buz.isOpen = true) ∧ openBlock s = .refused .openWhileOpen) ∨
    (s.led.isOpen = false ∧ s.buz.isOpen = false ∧ s.openAnswer = .ok ∧
      openBlock s = .next { s with env := s.afterOpen }.openUnits) ∨
    (s.led.isOpen = false ∧ s.buz.isOpen = false ∧ s.openAnswer = .fail ∧
      openBlock s = .next { s with env := s.afterOpen }.closeUnits) := by
  unfold openBlock
  cases s.led.isOpen <;> cases s.buz.isOpen <;> cases s.openAnswer <;> simp

/-- What close can do (R232). -/
theorem closeBlock_cases (s : State) :
    (s.allIdle = true ∧ closeBlock s = s.closeUnits) ∨
    (s.allIdle = false ∧ closeBlock s = { s with marks := { s.marks with refusedCloseBusy := true } }) := by
  unfold closeBlock
  cases s.allIdle
  · exact .inr ⟨rfl, rfl⟩
  · exact .inl ⟨rfl, rfl⟩

/-- If a step answers, the machine carries no `TimerSinkFault`, and nothing was scheduled or the first event was taken. -/
theorem step_next {s t : State} (h : step s = .next t) :
    s.marks.timerSinkFault = false ∧
      ((s.sched = [] ∧ t = s) ∨
        ∃ e rest, s.sched = e :: rest ∧ takeEvent e { s with sched := rest } = .next t) := by
  unfold step at h
  split at h
  · cases h
  · rename_i hm
    refine ⟨by simpa using hm, ?_⟩
    unfold advance at h
    split at h
    · rename_i hs
      cases h
      exact .inl ⟨hs, rfl⟩
    · rename_i e rest hs
      exact .inr ⟨e, rest, hs, h⟩

end Sys2Proof.Machine
end

