-- ==== Sys2Proof/Laws/PerInstr.lean ====
section
/-!
SUPPORT. Statements made for each operation of the block on its own.
-/

namespace Sys2Proof.Laws.DecodedIsWellFormed

/-- What the decoder reads as `i` is well-formed, and is no internal operation (R80, R82). -/
def Statement (i : Instr) : Prop :=
  ∀ (p : Params) (op : HostOp), decode p op = .ok i → i.wellFormed = true ∧ i.isInternal = false

theorem statement_freqInstr (f : Freq) : (freqInstr f).wellFormed = true ∧ (freqInstr f).isInternal = false := by
  unfold freqInstr
  split
  · exact ⟨rfl, rfl⟩
  · rename_i h; exact ⟨by simpa [Instr.wellFormed] using h, rfl⟩

/-- The decoder's answers, by what was written. -/
theorem decode_ok {p : Params} {op : HostOp} {i : Instr} (h : decode p op = .ok i) :
    (∃ text, i = .apply text) ∨ (∃ f, i = freqInstr f) ∨ (∃ pins colors, i = .lightOn pins colors) ∨ i = .lightOff := by
  unfold decode at h
  split at h
  · cases h; exact .inl ⟨_, rfl⟩
  · cases h; exact .inr (.inl ⟨_, rfl⟩)
  · split at h
    · cases h; exact .inr (.inl ⟨_, rfl⟩)
    · cases h
  · cases h; exact .inr (.inr (.inl ⟨_, _, rfl⟩))
  · cases h; exact .inr (.inr (.inr rfl))

theorem statement_any (i : Instr) : Statement i := by
  intro p op h
  rcases decode_ok h with ⟨text, rfl⟩ | ⟨f, rfl⟩ | ⟨pins, colors, rfl⟩ | rfl
  · exact ⟨rfl, rfl⟩
  · exact statement_freqInstr f
  · exact ⟨rfl, rfl⟩
  · exact ⟨rfl, rfl⟩

theorem apply (text : List Byte) : Statement (.apply text) := statement_any _
theorem entry (text : List Byte) (pos : Nat) : Statement (.entry text pos) := statement_any _
theorem entryWrite (index : LightIndex) (rgb : Rgb) : Statement (.entryWrite index rgb) := statement_any _
theorem encode : Statement .encode := statement_any _
theorem transmit (frame : List Byte) : Statement (.transmit frame) := statement_any _
theorem setfreqOff : Statement .setfreqOff := statement_any _
theorem setfreqTone (f : Freq) : Statement (.setfreqTone f) := statement_any _
theorem lightOn (pins : List Nat) (colors : List (List Byte)) : Statement (.lightOn pins colors) := statement_any _
theorem lightOff : Statement .lightOff := statement_any _

end Sys2Proof.Laws.DecodedIsWellFormed
end

