-- ==== Sys2Proof/Tests/Slice0.lean ====
section
/-!
SUPPORT. The model's own tests. Expected results are the spec's: R114's corner cases and the worked examples and vectors of
95_test_vectors, each named in its comment. The witnesses at the end show that each statement's hypotheses can be met.
-/

namespace Sys2Proof.Tests

open Sys2Proof Sys2Proof.Machine

/-! ### Ill-formed operands are refused -/

theorem test_wf_entry_cursor_past_the_text : (Instr.entry [0x30, 0x3A] 3).wellFormed = false := by decide

theorem test_wf_transmit_of_35_bytes : (Instr.transmit (List.replicate 35 0x00)).wellFormed = false := by decide

theorem test_wf_tone_of_zero : (Instr.setfreqTone 0).wellFormed = false := by decide

theorem test_wf_accepts :
    (Instr.entry [0x30, 0x3A] 2).wellFormed = true ∧ (Instr.transmit (List.replicate 36 0x00)).wellFormed = true ∧
    (Instr.setfreqTone 1).wellFormed = true ∧ Instr.lightOff.wellFormed = true := by decide

/-! ### Words written out from the spec's encodings -/

def big : Params := { freqByteOrder := .big }

def little : Params := { freqByteOrder := .little }

/-- P1 step 1: a light-port write is an APPLY of the whole write. -/
theorem test_decode_apply :
    decode big (.light [0x30, 0x3A, 0x46, 0x46, 0x30, 0x30, 0x30, 0x30, 0x2C, 0x33, 0x3A, 0x30, 0x30, 0x46, 0x46,
      0x30, 0x30]) =
      .ok (.apply [0x30, 0x3A, 0x46, 0x46, 0x30, 0x30, 0x30, 0x30, 0x2C, 0x33, 0x3A, 0x30, 0x30, 0x46, 0x46, 0x30, 0x30]) :=
        by decide

/-- V-D1, W3: ENTRY and ENTRY_WRITE, the entries of that text. -/
theorem test_decode_entries :
    parseText big [0x30, 0x3A, 0x46, 0x46, 0x30, 0x30, 0x30, 0x30, 0x2C, 0x33, 0x3A, 0x30, 0x30, 0x46, 0x46, 0x30,
      0x30] =
      ([(0, 0xFF0000), (3, 0x00FF00)], none) := by decide

/-- V-B1: the off form, in both byte orders. -/
theorem test_decode_setfreq_off :
    decode big (.buzzerBytes [0x00, 0x00, 0x00, 0x00]) = .ok .setfreqOff ∧
    decode little (.buzzerBytes [0x00, 0x00, 0x00, 0x00]) = .ok .setfreqOff ∧
    decodeTableWord 32 0x00000000 = some .setfreqOff := by decide

/-- V-B7: 1000 Hz is 0x000003E8. -/
theorem test_decode_setfreq_tone :
    decode big (.buzzerBytes [0x00, 0x00, 0x03, 0xE8]) = .ok (.setfreqTone 1000) ∧
    decode little (.buzzerBytes [0xE8, 0x03, 0x00, 0x00]) = .ok (.setfreqTone 1000) ∧
    decode big (.setFrequency 1000) = .ok (.setfreqTone 1000) ∧
    decodeTableWord 32 0x000003E8 = some (.setfreqTone 1000) := by decide

/-- V-B20: a 2-byte buzzer write is refused. -/
theorem test_decode_wrong_length :
    decode big (.buzzerBytes [0x03, 0xE8]) = .error .wordSize ∧ decodeTableWord 16 0x03E8 = none := by decide

/-- Log 20: around the one width the table numbers, every other is refused. -/
theorem test_decode_table_widths :
    [24, 25, 31, 33, 36, 39, 40].map (fun n => decodeTableWord n 1) = List.replicate 7 none ∧
    decodeTableWord 32 1 = some (.setfreqTone 1) := by decide

/-- V-P4: the text `lightOn([0,1,2], ["FF0000"])` builds. -/
theorem test_decode_light_on :
    decode big (.lightOn [0, 1, 2] [[0x46, 0x46, 0x30, 0x30, 0x30, 0x30]]) =
      .ok (.lightOn [0, 1, 2] [[0x46, 0x46, 0x30, 0x30, 0x30, 0x30]]) ∧
    buildText [0, 1, 2] [[0x46, 0x46, 0x30, 0x30, 0x30, 0x30]] =
      [0x30, 0x3A, 0x46, 0x46, 0x30, 0x30, 0x30, 0x30, 0x2C, 0x31, 0x3A, 0x46, 0x46, 0x30, 0x30, 0x30, 0x30, 0x2C] ++
      [0x32, 0x3A, 0x46, 0x46, 0x30, 0x30, 0x30, 0x30] := by decide

/-- V-P5 and V-P6: a colour for each pin, and the broadcast of the first on a mismatch. -/
theorem test_build_per_pin_and_broadcast :
    buildText [0, 1, 2] [[0x46, 0x46, 0x30, 0x30, 0x30, 0x30], [0x30, 0x30, 0x46, 0x46, 0x30, 0x30],
      [0x30, 0x30, 0x30, 0x30, 0x46, 0x46]] =
      [0x30, 0x3A, 0x46, 0x46, 0x30, 0x30, 0x30, 0x30, 0x2C, 0x31, 0x3A, 0x30, 0x30, 0x46, 0x46, 0x30, 0x30, 0x2C] ++
      [0x32, 0x3A, 0x30, 0x30, 0x30, 0x30, 0x46, 0x46] ∧
    buildText [0, 1, 2] [[0x46, 0x46, 0x30, 0x30, 0x30, 0x30], [0x30, 0x30, 0x46, 0x46, 0x30, 0x30]] =
      [0x30, 0x3A, 0x46, 0x46, 0x30, 0x30, 0x30, 0x30, 0x2C, 0x31, 0x3A, 0x46, 0x46, 0x30, 0x30, 0x30, 0x30, 0x2C] ++
      [0x32, 0x3A, 0x46, 0x46, 0x30, 0x30, 0x30, 0x30] := by decide

/-- V-P8: `lightOff()` and its 62 bytes. -/
theorem test_decode_light_off :
    decode big .lightOff = .ok .lightOff ∧ (buildText allPins blackColours).length = 62 ∧
    buildText allPins blackColours =
      [0x30, 0x3A, 0x30, 0x30, 0x30, 0x30, 0x30, 0x30, 0x2C, 0x31, 0x3A, 0x30, 0x30, 0x30, 0x30, 0x30, 0x30, 0x2C] ++
      [0x32, 0x3A, 0x30, 0x30, 0x30, 0x30, 0x30, 0x30, 0x2C, 0x33, 0x3A, 0x30, 0x30, 0x30, 0x30, 0x30, 0x30, 0x2C] ++
      [0x34, 0x3A, 0x30, 0x30, 0x30, 0x30, 0x30, 0x30, 0x2C, 0x35, 0x3A, 0x30, 0x30, 0x30, 0x30, 0x30, 0x30, 0x2C] ++
      [0x36, 0x3A, 0x30, 0x30, 0x30, 0x30, 0x30, 0x30] := by decide

/-! ### R114, the corner cases of the decoder, and the parameter variants V-D -/

/-- R114: `""`, `"0FF0000"`, `"0:FF0000,"`. -/
theorem test_missing_colon :
    parseText big [] = ([], some .missingColon) ∧
    parseText big [0x30, 0x46, 0x46, 0x30, 0x30, 0x30, 0x30] = ([], some .missingColon) ∧
    parseText big [0x30, 0x3A, 0x46, 0x46, 0x30, 0x30, 0x30, 0x30, 0x2C] = ([(0, 0xFF0000)], some .missingColon) :=
      by decide

/-- R114: `":FF0000"`, `"7:FFFFFF"`, `"a:FFFFFF"`, `"0:FF0000,9:000000"`. -/
theorem test_index_out_of_range :
    parseText big [0x3A, 0x46, 0x46, 0x30, 0x30, 0x30, 0x30] = ([], some .indexOutOfRange) ∧
    parseText big [0x37, 0x3A, 0x46, 0x46, 0x46, 0x46, 0x46, 0x46] = ([], some .indexOutOfRange) ∧
    parseText big [0x61, 0x3A, 0x46, 0x46, 0x46, 0x46, 0x46, 0x46] = ([], some .indexOutOfRange) ∧
    parseText big [0x30, 0x3A, 0x46, 0x46, 0x30, 0x30, 0x30, 0x30, 0x2C, 0x39, 0x3A, 0x30, 0x30, 0x30, 0x30, 0x30, 0x30] = ([(0, 0xFF0000)], some .indexOutOfRange) :=
      by decide

/-- R114: `"10:FFFFFF"`, `"00:FFFFFF"`, `"12,3:FF0000"`. -/
theorem test_index_too_long :
    parseText big [0x31, 0x30, 0x3A, 0x46, 0x46, 0x46, 0x46, 0x46, 0x46] = ([], some .indexTooLong) ∧
    parseText big [0x30, 0x30, 0x3A, 0x46, 0x46, 0x46, 0x46, 0x46, 0x46] = ([], some .indexTooLong) ∧
    parseText big [0x31, 0x32, 0x2C, 0x33, 0x3A, 0x46, 0x46, 0x30, 0x30, 0x30, 0x30] = ([], some .indexTooLong) :=
      by decide

/-- R114: `"0:FFFFF"`, `"0:FFFFFG"`; V-D2 `"1:abcdef,2:12345G"`. -/
theorem test_invalid_hex_digit :
    parseText big [0x30, 0x3A, 0x46, 0x46, 0x46, 0x46, 0x46] = ([], some .invalidHexDigit) ∧
    parseText big [0x30, 0x3A, 0x46, 0x46, 0x46, 0x46, 0x46, 0x47] = ([], some .invalidHexDigit) ∧
    parseText big [0x31, 0x3A, 0x61, 0x62, 0x63, 0x64, 0x65, 0x66, 0x2C, 0x32, 0x3A, 0x31, 0x32, 0x33, 0x34, 0x35, 0x47] = ([(1, 0xABCDEF)], some .invalidHexDigit) :=
      by decide

/-- R114: `"0:aBcDeF"`, `"0:FF0000\n"`, `"0:FF0000xyz"`, `"0:FF0000,0:0000FF"`, `"0:FF00001:00FF00"`. -/
theorem test_accepted_texts :
    parseText big [0x30, 0x3A, 0x61, 0x42, 0x63, 0x44, 0x65, 0x46] = ([(0, 0xABCDEF)], none) ∧
    parseText big [0x30, 0x3A, 0x46, 0x46, 0x30, 0x30, 0x30, 0x30, 0x0A] = ([(0, 0xFF0000)], none) ∧
    parseText big [0x30, 0x3A, 0x46, 0x46, 0x30, 0x30, 0x30, 0x30, 0x78, 0x79, 0x7A] = ([(0, 0xFF0000)], none) ∧
    parseText big [0x30, 0x3A, 0x46, 0x46, 0x30, 0x30, 0x30, 0x30, 0x2C, 0x30, 0x3A, 0x30, 0x30, 0x30, 0x30, 0x46,
      0x46] = ([(0, 0xFF0000), (0, 0x0000FF)], none) ∧
    parseText big [0x30, 0x3A, 0x46, 0x46, 0x30, 0x30, 0x30, 0x30, 0x31, 0x3A, 0x30, 0x30, 0x46, 0x46, 0x30, 0x30] = ([(0, 0xFF0000)], none) :=
      by decide

/-- R114 and V-D4: `"0:FF0000 junk,1:00FF00"` with scan and with adjacent. -/
theorem test_separator_modes :
    parseText big [0x30, 0x3A, 0x46, 0x46, 0x30, 0x30, 0x30, 0x30, 0x20, 0x6A, 0x75, 0x6E, 0x6B, 0x2C, 0x31, 0x3A,
      0x30, 0x30, 0x46, 0x46, 0x30, 0x30] = ([(0, 0xFF0000), (1, 0x00FF00)], none) ∧
    parseText { freqByteOrder := .big, sepMode := .adjacent } [0x30, 0x3A, 0x46, 0x46, 0x30, 0x30, 0x30, 0x30, 0x20, 0x6A, 0x75, 0x6E, 0x6B, 0x2C, 0x31, 0x3A, 0x30, 0x30, 0x46, 0x46, 0x30, 0x30] = ([(0, 0xFF0000)], none) :=
      by decide

/-- V-D5, V-D6: `"06:FFFFFF"` with `INDEX_MAX_CHARS` 2 and 1. -/
theorem test_two_digit_index :
    parseText { freqByteOrder := .big, indexMaxChars := 2 } [0x30, 0x36, 0x3A, 0x46, 0x46, 0x46, 0x46, 0x46,
      0x46] = ([(6, 0xFFFFFF)], none) ∧
    parseText big [0x30, 0x36, 0x3A, 0x46, 0x46, 0x46, 0x46, 0x46, 0x46] = ([], some .indexTooLong) := by decide

/-! ### The frame: V-E6 and V-E8 -/

/-- V-E6: `L[i] = 0x111111 * (i + 1)`. -/
theorem test_frame_of_greys :
    encodeFrame #v[0x111111, 0x222222, 0x333333, 0x444444, 0x555555, 0x666666, 0x777777] =
      [0x00, 0x00, 0x00, 0x00, 0xFF, 0x11, 0x11, 0x11, 0xFF, 0x22, 0x22, 0x22, 0xFF, 0x33, 0x33, 0x33] ++
      [0xFF, 0x44, 0x44, 0x44, 0xFF, 0x55, 0x55, 0x55, 0xFF, 0x66, 0x66, 0x66, 0xFF, 0x77, 0x77, 0x77] ++
      [0xFF, 0xFF, 0xFF, 0xFF] := by decide

/-- V-E8: `L[0] = 0x123456`, the rest black. -/
theorem test_frame_channel_order :
    encodeFrame #v[0x123456, 0, 0, 0, 0, 0, 0] =
      [0x00, 0x00, 0x00, 0x00, 0xFF, 0x56, 0x34, 0x12, 0xFF, 0x00, 0x00, 0x00, 0xFF, 0x00, 0x00, 0x00] ++
      [0xFF, 0x00, 0x00, 0x00, 0xFF, 0x00, 0x00, 0x00, 0xFF, 0x00, 0x00, 0x00, 0xFF, 0x00, 0x00, 0x00] ++
      [0xFF, 0xFF, 0xFF, 0xFF] := by decide

/-! ### Single steps -/

/-- The next state of a step that has one, for reading its fields. -/
def after (o : Host.Outcome State Fault Refusal) : State :=
  match o with
  | .next t => t
  | _ => State.reset

/-- Black start with parameters `p`: caller 0 issues, and both sinks' next answers are settled. -/
def start (p : Params) (transport timer : List SinkAnswer) : State :=
  { State.reset with params := p, env := { transport := transport, timer := timer } }

/-- Caller 0 in the middle of an operation, with the lock it holds there. -/
def during (p : Params) (ph : Phase) (transport timer : List SinkAnswer) : State :=
  { start p transport timer with
    callers := [(0, { phase := ph })]
    led := { LedUnit.opened with lock := if ph.isLedHolding then .held 0 else .free }
    buz := { BuzUnit.opened with lock := match ph with | .buzHolding _ => .held 0 | _ => .free } }

def red0 : List Byte := [0x30, 0x3A, 0x46, 0x46, 0x30, 0x30, 0x30, 0x30]

def partialText : List Byte :=
  [0x31, 0x3A, 0x61, 0x62, 0x63, 0x64, 0x65, 0x66, 0x2C, 0x32, 0x3A, 0x31, 0x32, 0x33, 0x34, 0x35, 0x47]

/-- V-A1: the body writes, sends and ends `OK`. -/
theorem test_apply_ok :
    let t := after (exec (.apply []) (during big (.ledHolding red0) [.ok] []))
    t.led.lights = #v[0xFF0000, 0, 0, 0, 0, 0, 0] ∧ t.led.lock = .free ∧ (t.caller 0).results = [.ok] ∧
    t.led.xmitLog.map (·.answer) = [.ok] := by decide

/-- V-D2: the earlier write stays and nothing is sent. -/
theorem test_apply_partial :
    let t := after (exec (.apply []) (during big (.ledHolding partialText) [.ok] []))
    t.led.lights = #v[0, 0xABCDEF, 0, 0, 0, 0, 0] ∧ t.led.xmitLog = [] ∧
    (t.caller 0).results = [.invalidHexDigit] := by decide

/-- V-D3: with `APPLY_ATOMIC` nothing is written. -/
theorem test_entry_atomic_drops_the_staging_list :
    let t := after (exec (.apply []) (during { big with applyAtomic := true } (.ledHolding partialText) [.ok] []))
    t.led.lights = Vector.replicate 7 0 ∧ (t.caller 0).results = [.invalidHexDigit] := by decide

/-- R108: the second entry of P1's text, alone. -/
theorem test_entry_writes_its_light :
    let t := after (exec (.entry [0x30, 0x3A, 0x46, 0x46, 0x30, 0x30, 0x30, 0x30, 0x2C, 0x33, 0x3A, 0x30, 0x30, 0x46,
      0x46, 0x30, 0x30] 9)
      (during big (.ledHolding red0) [] []))
    t.led.lights = #v[0, 0, 0, 0x00FF00, 0, 0, 0] ∧ t.led.scratch.decode = .succeeded := by decide

/-- R110, and R111 with `APPLY_ATOMIC`. -/
theorem test_entry_write :
    (after (exec (.entryWrite 6 0xFFFFFF) (during big (.ledHolding red0) [] []))).led.lights[6] = 0xFFFFFF ∧
    (after (exec (.entryWrite 6 0xFFFFFF)
      (during { big with applyAtomic := true } (.ledHolding red0) [] []))).led.lights[6] = 0x000000 := by decide

/-- V-E1: the frame of a black strip. -/
theorem test_encode :
    (after (exec .encode (during big (.ledHolding red0) [] []))).led.scratch.frame =
      some ([0, 0, 0, 0] ++ (List.replicate 7 [0xFF, 0, 0, 0]).flatten ++ [0xFF, 0xFF, 0xFF, 0xFF]) := by decide

/-- R142: one record, also for the answer `fail`. -/
theorem test_transmit :
    let t := after (exec (.transmit (List.replicate 36 0x5A)) (during big (.ledHolding red0) [.fail, .ok] []))
    t.led.xmitLog = [{ frame := List.replicate 36 0x5A, answer := .fail }] ∧ t.env.transport = [.ok] := by decide

/-- P3 step 2: off keeps the frequency. -/
theorem test_setfreq_off :
    let s := during big (.buzHolding 0) [] []
    let t := after (exec .setfreqOff { s with buz := { s.buz with tone := { enabled := true, frequencyHz := 440 } } })
    t.buz.tone = { enabled := false, frequencyHz := 440 } ∧ t.buz.timerLog = [.disable] := by decide

/-- V-B6. -/
theorem test_setfreq_tone_440 :
    let t := after (exec (.setfreqTone 440) (during big (.buzHolding 440) [] []))
    t.buz.timerLog = [.configure 1136363 2272727, .enable] ∧
    t.buz.tone = { enabled := true, frequencyHz := 440 } := by decide

/-- V-B15: a frequency above 10^9 programs a zero period. -/
theorem test_setfreq_tone_largest :
    (after (exec (.setfreqTone 0xFFFFFFFF) (during big (.buzHolding 0xFFFFFFFF) [] []))).buz.timerLog =
      [.configure 0 0, .enable] := by decide

/-- V-P2: eight pins. -/
theorem test_light_on_eight_pins :
    let t := after (exec (.lightOn [0, 1, 2, 3, 4, 5, 6, 0] [[0x46, 0x46, 0x30, 0x30, 0x30, 0x30]])
      (start big [.ok] []))
    (t.caller 0).results = [.argError] ∧ t.phase 0 = .idle := by decide

/-- R196: `lightOn([7], ["FFFFFF"])` reaches the decoder, whose body ends with `IndexOutOfRange`. -/
theorem test_light_on_bad_pin :
    let t := after (exec (.lightOn [7] [[0x46, 0x46, 0x46, 0x46, 0x46, 0x46]])
      (during big (.ledHolding [0x37, 0x3A, 0x46, 0x46, 0x46, 0x46, 0x46, 0x46]) [.ok] []))
    (t.caller 0).results = [.indexOutOfRange] ∧ t.led.xmitLog = [] := by decide

/-- R194: the first step of `lightOff()` captures 62 bytes. -/
theorem test_light_off_waits :
    (after (exec .lightOff (start big [.ok] []))).phase 0 = .ledWaiting (buildText allPins blackColours) := by decide

/-- V-A3, and the fault of a machine whose timer sink failed. -/
theorem test_step_interrupt_and_fault :
    ((after (step { during big (.ledWaiting red0) [] [] with sched := [.interrupt 0] })).caller 0).results =
      [.interruptedError] ∧
    step { start big [] [] with marks := { timerSinkFault := true } } = .fault .timerSinkFault :=
  ⟨by decide, rfl⟩

/-- A table word runs as the first operation after reset: BUZ_TRY takes the lock. -/
theorem test_fetch_word :
    let t := after (step (State.reset.withFetchWord 32 0x000003E8))
    t.buz.lock = .held 0 ∧ t.phase 0 = .buzHolding 1000 := ⟨rfl, rfl⟩

/-! ### Witnesses: each statement's hypotheses are met, clause by clause, at boundary values -/

/-- A text of `n` spaces. -/
def spaces (n : Nat) : List Byte := List.replicate n 0x20

/-- Two callers wait for a free lock, as at step 5 of P4. -/
def twoWait : State :=
  { start big [.ok, .ok] [] with
    callers := [(1, { phase := .ledWaiting red0 }), (2, { phase := .ledWaiting red0 })]
    sched := [.turn 1, .turn 1, .turn 2, .turn 2] }

/-- The timer sink can fail, and its next answers are these. -/
def fallible : Params := { big with timerSinkFallible := true }

/-- `MAX_PERIOD_NS = 10^8`, the bound of V-B16 and V-B17. -/
def small : Params := { big with maxPeriodNs := 100000000 }

/-- A block that is not open, with its next opens settled. -/
def closedBlock (opens : List SinkAnswer) : State :=
  { (start big [] []).closeUnits with env := { opens := opens }, sched := [.openBlock] }

theorem witness_DecodeOfEncodeIsTheInstruction :
    (Instr.setfreqTone 0xFFFFFFFF).wellFormed = true ∧ (Instr.setfreqTone 0xFFFFFFFF).isInternal = false ∧
    Instr.setfreqOff.wellFormed = true ∧ Instr.setfreqOff.isInternal = false ∧
    (Instr.apply (spaces 71)).wellFormed = true ∧ (Instr.apply (spaces 71)).isInternal = false :=
      ⟨by decide, rfl, rfl, rfl, rfl, rfl⟩

theorem witness_CanonicalTextDecodesToItsEntries :
    ([(6, 0xFFFFFF)] : List (LightIndex × Rgb)) ≠ [] ∧ 1 ≤ big.indexMaxChars := by decide

theorem witness_DecodeLoopObeysItsPseudocode :
    ([] : List Byte).length - 0 < 1 ∧ red0.length - 3 < 6 := by decide

/-- Both sides of the equivalence are met in both modes. -/
theorem witness_SeparatorStartsTheNextEntry :
    nextEntry big [0x30, 0x3A, 0x46, 0x46, 0x30, 0x30, 0x30, 0x30, 0x2C] 8 = some 9 ∧ nextEntry big red0 8 = none ∧
    nextEntry { big with sepMode := .adjacent } [0x30, 0x3A, 0x46, 0x46, 0x30, 0x30, 0x30, 0x30, 0x2C] 8 = some 9 :=
      by decide

/-- The left sides of the four statements on decode errors, R102 to R105. -/
theorem witness_DecodeErrors :
    decodeEntry big [] 0 = .error .missingColon ∧ decodeEntry big [0x31, 0x30, 0x3A] 0 = .error .indexTooLong ∧
    decodeEntry big [0x37, 0x3A] 0 = .error .indexOutOfRange ∧
    decodeEntry big [0x36, 0x3A] 0 = .error .invalidHexDigit := by decide

theorem witness_ColourChannelsComeFromTheirDigitPairs :
    hexDigit? 0x30 = some 0 ∧ hexDigit? 0x39 = some 9 ∧ hexDigit? 0x41 = some 10 ∧ hexDigit? 0x46 = some 15 ∧
    hexDigit? 0x61 = some 10 ∧ hexDigit? 0x66 = some 15 := by decide

theorem witness_ColourSpellingsReadBack :
    ([0x61, 0x42, 0x63, 0x44, 0x65, 0x46] : List Byte).map lowerCase = (colourText 0xABCDEF).map lowerCase := by decide

theorem witness_DecimalSpellingReadsBack :
    (10 : Nat) ≠ 0 ∧ decimalText 10 = [0x31, 0x30] ∧ decimalText 0 = [0x30] := by decide

theorem witness_WireFrameHasTheLayoutOfTheRule :
    (3 : Nat) < 4 ∧ (32 : Nat) ≤ 32 ∧ (35 : Nat) < 36 ∧ (encodeFrame (Vector.replicate 7 0))[35]? = some 0xFF :=
      by decide

theorem witness_WireFrameDeterminesTheLights :
    encodeFrame #v[0, 0, 0, 0, 0, 0, 0xFFFFFF] = encodeFrame ((Vector.replicate 7 0).set 6 0xFFFFFF) := by decide

theorem witness_EndingAnOperationReturnsItsOutcome :
    (1 : Nat) ≠ 0 ∧ (during big (.ledHolding red0) [] []).phase 0 = .ledHolding red0 := by decide

theorem witness_ClosedUnitAnswersDeviceUnavailable :
    (closedBlock []).phase (closedBlock []).cur = .idle ∧ (closedBlock []).led.isOpen = false ∧
    badLightArgs (closedBlock []).params [0] [[0x46, 0x46, 0x30, 0x30, 0x30, 0x30]] = false := by decide

theorem witness_LedAcceptChecksTheLength :
    let s := start big [] []
    s.phase s.cur = .idle ∧ s.led.isOpen = true ∧ s.params.cmdMaxLen < (spaces 71).length ∧
      (spaces 70).length ≤ s.params.cmdMaxLen := ⟨rfl, rfl, by simp [spaces, start, big], by simp [spaces, start, big]⟩

theorem witness_LedAcquireTakesAFreeLock :
    let s := during big (.ledWaiting red0) [] []
    s.phase s.cur = .ledWaiting red0 ∧ s.led.lock = .free ∧
      (s.setLedLock (.held 1)).phase s.cur = .ledWaiting red0 ∧ (s.setLedLock (.held 1)).led.lock = .held 1 := by decide

theorem witness_LedBodyDecodesSendsAndReleases :
    let s := during big (.ledHolding red0) [.fail] []
    s.phase s.cur = .ledHolding red0 ∧ (parseText s.params red0).2 = none ∧ s.transportAnswer = .fail ∧
      (during big (.ledHolding partialText) [] []).phase 0 = .ledHolding partialText ∧
      (parseText big partialText).2 = some .invalidHexDigit := by decide

theorem witness_CanonicalApplyShowsItsEntries :
    let s := during big (.ledHolding (encodeText [(6, 0xFFFFFF), (0, 0)])) [.ok] []
    ([(6, 0xFFFFFF), (0, 0)] : List (LightIndex × Rgb)) ≠ [] ∧ 1 ≤ s.params.indexMaxChars ∧
      s.phase s.cur = .ledHolding (encodeText [(6, 0xFFFFFF), (0, 0)]) := by decide

theorem witness_ApplyOfOneEntrySendsItsGroup :
    let s := during big (.ledHolding (entryText 6 [0x31, 0x32, 0x61, 0x42, 0x63, 0x46])) [.ok] []
    colourField? [0x31, 0x32, 0x61, 0x42, 0x63, 0x46] = some 0x12ABCF ∧ 1 ≤ s.params.indexMaxChars ∧
      s.phase s.cur = .ledHolding (entryText 6 [0x31, 0x32, 0x61, 0x42, 0x63, 0x46]) := by decide

theorem witness_LastEntryForALightDecides :
    let buf : List Byte := [0x30, 0x3A, 0x46, 0x46, 0x30, 0x30, 0x30, 0x30, 0x2C, 0x30, 0x3A, 0x30, 0x30, 0x30, 0x30,
      0x46, 0x46]
    let s := during big (.ledHolding buf) [.ok] []
    s.phase s.cur = .ledHolding buf ∧ (parseText s.params buf).2 = none ∧
      (∀ e ∈ (parseText s.params buf).1, e.1 ≠ 6) ∧
      (parseText s.params buf).1 = [(0, 0xFF0000)] ++ (0, 0x0000FF) :: [] := by
  have h : parseText big [0x30, 0x3A, 0x46, 0x46, 0x30, 0x30, 0x30, 0x30, 0x2C, 0x30, 0x3A, 0x30, 0x30, 0x30, 0x30,
    0x46, 0x46] =
      ([(0, 0xFF0000), (0, 0x0000FF)], none) := by decide
  have k : ∀ e ∈ (parseText big [0x30, 0x3A, 0x46, 0x46, 0x30, 0x30, 0x30, 0x30, 0x2C, 0x30, 0x3A, 0x30, 0x30, 0x30,
    0x30, 0x46, 0x46]).1,
      e.1 ≠ 6 := by rw [h]; simp
  exact ⟨rfl, congrArg Prod.snd h, k, congrArg Prod.fst h⟩

theorem witness_EntryRunsOneTurnOfTheDecodeLoop :
    let buf : List Byte := [0x30, 0x3A, 0x46, 0x46, 0x30, 0x30, 0x30, 0x30, 0x2C, 0x30, 0x3A, 0x30, 0x30, 0x30, 0x30,
      0x46, 0x46]
    let s := during big (.ledHolding buf) [] []
    s.phase s.cur = .ledHolding buf ∧ decodeEntry s.params buf 17 = .error .missingColon ∧
      decodeEntry s.params buf 0 = .ok { index := 0, rgb := 0xFF0000, stop := 8 } ∧ nextEntry s.params buf 8 = some 9 ∧
      decodeEntry s.params buf 9 = .ok { index := 0, rgb := 0x0000FF, stop := 17 } ∧ nextEntry s.params buf 17 = none :=
        by decide

theorem witness_EntryWriteWritesOrStages :
    let s := during big (.ledHolding red0) [] []
    let u := during { big with applyAtomic := true } (.ledHolding red0) [] []
    s.phase s.cur = .ledHolding red0 ∧ s.params.applyAtomic = false ∧ (0 : LightIndex) ≠ 6 ∧
      u.phase u.cur = .ledHolding red0 ∧ u.params.applyAtomic = true := by decide

/-- For EncodeFillsTheFrameBuffer and TransmitAppendsOneRecord. -/
theorem witness_EncodeAndTransmit :
    let s := during big (.ledHolding red0) [.fail] []
    s.phase s.cur = .ledHolding red0 ∧ (encodeFrame s.led.lights).length = 36 := by decide

theorem witness_BuzTryTakesTheLockOrIsBusy :
    let s := start big [] []
    let u := s.setBuzLock (.held 1)
    s.phase s.cur = .idle ∧ s.buz.isOpen = true ∧ s.buz.lock = .free ∧
      u.phase u.cur = .idle ∧ u.buz.isOpen = true ∧ u.buz.lock = .held 1 ∧
      (closedBlock []).phase (closedBlock []).cur = .idle ∧ (closedBlock []).buz.isOpen = false := by decide

theorem witness_SetFreqOffDisablesTheTone :
    let s := during fallible (.buzHolding 0) [] [.ok]
    s.phase s.cur = .buzHolding 0 ∧ s.timerAnswer = .ok ∧ (during big (.buzHolding 0) [] []).timerAnswer = .ok :=
      by decide

theorem witness_SetFreqToneProgramsTheTimer :
    let s := during small (.buzHolding 10) [] []
    s.phase s.cur = .buzHolding 10 ∧ (10 : Freq) ≠ 0 ∧ 1000000000 / (10 : Freq).toNat ≤ s.params.maxPeriodNs ∧
      s.timerAnswer = .ok ∧ (s.timerCall (.configure (dutyNs 10) (periodNs 10))).timerAnswer = .ok := by decide

theorem witness_PeriodAboveTheBoundIsRejected :
    let s := during small (.buzHolding 9) [] []
    s.phase s.cur = .buzHolding 9 ∧ (9 : Freq) ≠ 0 ∧ s.params.maxPeriodNs < 1000000000 / (9 : Freq).toNat := by decide

theorem witness_PeriodAndDutyObeyTheArithmeticLaws :
    (1 : Freq) ≠ 0 ∧ periodNs 1 = 1000000000 ∧ (0xFFFFFFFF : Freq) ≠ 0 ∧ periodNs 0xFFFFFFFF = 0 := by decide

theorem witness_PeriodOverflowNeedsASmallBound :
    let s := during { big with maxPeriodNs := 1000000000 } (.buzHolding 1) [] []
    1000000000 ≤ s.params.maxPeriodNs ∧ s.phase s.cur = .buzHolding 1 ∧
      exec (.setfreqTone 1) s = .next (after (exec (.setfreqTone 1) s)) ∧ (9 : Freq) ≠ 0 ∧ (10 : Freq) ≠ 0 :=
        ⟨by decide, by decide, rfl, by decide, by decide⟩

theorem witness_TimerFailureMarksAndStopsTheMachine :
    let s := during fallible (.buzHolding 0) [] [.fail]
    let u := during fallible (.buzHolding 1) [] [.ok, .fail]
    s.phase s.cur = .buzHolding 0 ∧ s.timerAnswer = .fail ∧ periodNs 0 ≤ s.params.maxPeriodNs ∧
      u.phase u.cur = .buzHolding 1 ∧ (1 : Freq) ≠ 0 ∧ periodNs 1 ≤ u.params.maxPeriodNs ∧ u.timerAnswer = .ok ∧
      (u.timerCall (.configure (dutyNs 1) (periodNs 1))).timerAnswer = .fail ∧
      (after (exec .setfreqOff s)).marks.timerSinkFault = true := by decide

theorem witness_ColourSelectionIsOneRule :
    ([[0x46, 0x46, 0x30, 0x30, 0x30, 0x30], [0x30, 0x30, 0x46, 0x46, 0x30, 0x30]] : List (List Byte)) ≠ [] ∧ (2 : Nat) < 3 :=
      by decide

theorem witness_LightOnChecksItsArguments :
    let s := start { big with cmdMaxLen := 62 } [] []
    s.phase s.cur = .idle ∧ 7 < ([0, 1, 2, 3, 4, 5, 6, 0] : List Nat).length ∧
      s.params.cmdMaxLen < (buildText allPins [[0x30, 0x30, 0x30, 0x30, 0x30, 0x30,
        0x30]]).length ∧ allPins ≠ [] ∧ allPins.length ≤ 7 ∧
      blackColours ≠ [] ∧ (buildText allPins blackColours).length ≤ s.params.cmdMaxLen := by decide

theorem witness_LightOnBuildsTheCanonicalText :
    ([0x123456, 0xABCDEF] : List Rgb).length = ([6, 0] : List LightIndex).length := by decide

theorem witness_LightOnRunsItsApply :
    let s := start big [.ok] []
    s.phase s.cur = .idle ∧ s.led.isOpen = true ∧ s.led.lock = .free ∧
      badLightArgs s.params [4, 5] [[0x30, 0x30, 0x66, 0x66, 0x30, 0x30], [0x30, 0x30, 0x30, 0x30, 0x66, 0x66],
        [0x66, 0x66, 0x30, 0x30, 0x30, 0x30]] = false ∧
      (during big (.ledWaiting red0) [] []).phase 0 ≠ .idle ∧ (during big (.buzHolding 1) [] []).phase 0 ≠ .idle :=
        by decide

theorem witness_LightOffBlackensEveryLight :
    let s := start { big with cmdMaxLen := 62 } [.ok] []
    s.phase s.cur = .idle ∧ s.led.isOpen = true ∧ s.led.lock = .free ∧ 62 ≤ s.params.cmdMaxLen ∧
      1 ≤ s.params.indexMaxChars ∧ (start { big with cmdMaxLen := 61 } [] []).params.cmdMaxLen < 62 ∧
      (closedBlock []).phase (closedBlock []).cur = .idle ∧ 62 ≤ (closedBlock []).params.cmdMaxLen ∧
      (closedBlock []).led.isOpen = false := by decide

theorem witness_StepRunsTheDecodedInstruction :
    let s : State := { start big [] [] with callers := [(0, { ops := [.light red0] })], sched := [.turn 0] }
    let u := { during big (.ledHolding red0) [] [] with sched := [.turn 0] }
    let v := { during big (.buzHolding 1) [] [] with sched := [.turn 0] }
    s.marks.timerSinkFault = false ∧ s.sched = .turn 0 :: [] ∧ s.phase 0 = .idle ∧
      (s.caller 0).ops = .light red0 :: [] ∧ decode s.params (.light red0) = .ok (.apply red0) ∧
      u.marks.timerSinkFault = false ∧ u.sched = .turn 0 :: [] ∧ u.phase 0 = .ledHolding red0 ∧
      twoWait.marks.timerSinkFault = false ∧ twoWait.phase 1 = .ledWaiting red0 ∧
      v.marks.timerSinkFault = false ∧ v.sched = .turn 0 :: [] ∧ v.phase 0 = .buzHolding 1 := by decide

theorem witness_WrongLengthBuzzerWriteIsRefused :
    let s : State := { start big [] [] with callers := [(0, { ops := [.buzzerBytes [1, 2, 3]] })], sched := [.turn 0] }
    s.marks.timerSinkFault = false ∧ s.sched = .turn 0 :: [] ∧ s.phase 0 = .idle ∧
      (s.caller 0).ops = .buzzerBytes [1, 2, 3] :: [] ∧ ([1, 2, 3] : List Byte).length ≠ 4 ∧
      ([1, 2, 3, 4, 5] : List Byte).length ≠ 4 ∧ ([] : List Byte).length ≠ 4 := by decide

theorem witness_InterruptionEndsOnlyAWait :
    let s := { during big (.ledWaiting red0) [] [] with sched := [.interrupt 0] }
    let u := { during big (.ledHolding red0) [] [] with sched := [.interrupt 0] }
    s.marks.timerSinkFault = false ∧ s.sched = .interrupt 0 :: [] ∧ s.phase 0 = .ledWaiting red0 ∧
      u.marks.timerSinkFault = false ∧ u.sched = .interrupt 0 :: [] ∧ ∀ buf, u.phase 0 ≠ .ledWaiting buf :=
        ⟨rfl, rfl, rfl, rfl, rfl, fun _ h => nomatch (show Phase.ledHolding red0 = _ from h)⟩

theorem witness_OpenCreatesBothUnitsOrNeither :
    let s := closedBlock [.ok]
    let u := closedBlock [.fail]
    CallersWf s.callers ∧ s.marks.timerSinkFault = false ∧ s.sched = .openBlock :: [] ∧ s.led.isOpen = false ∧
      s.buz.isOpen = false ∧ s.openAnswer = .ok ∧ CallersWf u.callers ∧ u.openAnswer = .fail := by decide

theorem witness_CloseNeedsEveryCallerIdle :
    let s := { start big [] [] with sched := [.closeBlock] }
    let u := { during big (.ledWaiting red0) [] [] with sched := [.closeBlock] }
    CallersWf s.callers ∧ s.marks.timerSinkFault = false ∧ s.sched = .closeBlock :: [] ∧ (∀ c, s.phase c = .idle) ∧
      CallersWf u.callers ∧ u.marks.timerSinkFault = false ∧ u.sched = .closeBlock :: [] ∧ u.phase 0 ≠ .idle :=
        ⟨by decide, rfl, rfl, fun _ => rfl, by decide, rfl, rfl, by decide⟩

theorem witness_AFinalMachineStartsNothing :
    let s := { start big [] [] with sched := [.turn 5] }
    Final s ∧ s.sched = .turn 5 :: [] ∧ Final { s with sched := [.interrupt 5] } :=
      ⟨⟨rfl, fun _ => ⟨rfl, rfl⟩⟩, rfl, rfl, fun _ => ⟨rfl, rfl⟩⟩

theorem witness_AHolderFreesItsLockInOneTurn :
    let s := { during big (.ledHolding red0) [] [] with sched := [.turn 0] }
    let u := { during big (.buzHolding 0) [] [] with sched := [.turn 0] }
    s.marks.timerSinkFault = false ∧ s.sched = .turn 0 :: [] ∧ s.phase 0 = .ledHolding red0 ∧
      u.marks.timerSinkFault = false ∧ u.sched = .turn 0 :: [] ∧ u.phase 0 = .buzHolding 0 ∧
      u.params.timerSinkFallible = false := by decide

theorem witness_TheLaterOfTwoAppliesDecidesTheFrame :
    (1 : Nat) ≠ 2 ∧ twoWait.marks.timerSinkFault = false ∧ twoWait.led.lock = .free ∧
    twoWait.sched = [.turn 1, .turn 1, .turn 2, .turn 2] ∧ twoWait.phase 1 = .ledWaiting red0 ∧
    twoWait.phase 2 = .ledWaiting red0 ∧ (parseText twoWait.params red0).2 = none := by decide

/-- For LedInstructionsFrame, BuzzerInstructionsFrame and UnitsDoNotInfluenceEachOther. -/
theorem witness_InstructionFrames :
    let s := start big [.ok] []
    (Instr.apply red0).isBuzzer = false ∧ Instr.setfreqOff.isBuzzer = true ∧ (1 : Nat) ≠ s.cur ∧
      (∀ buf, s.phase s.cur ≠ .ledHolding buf) ∧ (∀ f, s.phase s.cur ≠ .buzHolding f) ∧
      exec (.apply red0) s = .next (after (exec (.apply red0) s)) ∧
      exec .setfreqOff s = .next (after (exec .setfreqOff s)) ∧
      readCaller [(1, { phase := .ledWaiting red0 })] s.cur = s.caller s.cur := by
  have h : (start big [.ok] []).phase (start big [.ok] []).cur = .idle := rfl
  exact ⟨rfl, rfl, by decide, by simp [h], by simp [h], rfl, rfl, rfl⟩

/-- Caller 0 holds the LED lock and its turn is next: the state the invariants' witness starts from. -/
def holding : State := { during big (.ledHolding red0) [.ok] [] with sched := [.turn 0] }

theorem holding_phase (c : Nat) : holding.phase c = if c = 0 then .ledHolding red0 else .idle := by
  by_cases h : c = 0
  · subst h; rfl
  · have h' : ¬ 0 = c := fun k => h k.symm
    simp [State.phase, State.caller, holding, during, readCaller, h, h']

/-- Every invariant's hypotheses, and a step that answers, for LogsOnlyGrow,
  MarksAndParametersStay and the statements that
steps keep the invariants. -/
theorem witness_Invariants :
    CallersWf holding.callers ∧ LocksAgree holding ∧ ClosedUnitsIdle holding ∧ ScratchAtRest holding ∧
    FramesWhole holding ∧ TimerCallsInRange holding ∧ ToneInRange holding ∧ TextsBounded holding ∧
    holding.sched.head? ≠ some .openBlock ∧ step holding = .next (after (step holding)) := by
  refine ⟨by decide, fun c => ?_, fun c => ?_, rfl, ?_, ?_, ?_, fun c buf h => ?_, by decide, rfl⟩
  · rw [holding_phase]
    by_cases h : c = 0
    · subst h; simp [holding, during, Phase.isLedHolding]
    · have h' : ¬ 0 = c := fun k => h k.symm
      simp [holding, during, Phase.isLedHolding, h, h']
  · simp [holding, during, LedUnit.opened, BuzUnit.opened]
  · simp [FramesWhole, holding, during, LedUnit.opened]
  · simp [TimerCallsInRange, holding, during, BuzUnit.opened]
  · simp [ToneInRange, holding, during, BuzUnit.opened]
  · rw [holding_phase] at h
    by_cases hc : c = 0
    · have : buf = red0 := by simpa [hc, eq_comm] using h
      subst this; decide
    · simp [hc] at h

/-- The marks' clauses: a machine that carries the two refusal marks still steps. -/
theorem witness_MarksAndParametersStay :
    let s : State := { holding with marks := { refusedWordSize := true, refusedCloseBusy := true } }
    step s = .next (after (step s)) ∧ s.marks.refusedWordSize = true ∧ s.marks.refusedCloseBusy = true ∧
      s.sched.head? ≠ some .openBlock := ⟨rfl, rfl, rfl, by decide⟩

end Sys2Proof.Tests
end

section
/-!
SUPPORT. What one step of a unit does, as data. A step of the LED unit is a `LedAct`, a step of the buzzer unit a `BuzAct`:
the act is chosen from the unit's own state and the caller's own entry (`exec_led_effect`, `exec_buz_act`), and what it does is
read off its constructor. The frames, the independence of the units and the invariants all follow from these acts.
-/

namespace Sys2Proof.Machine

/-! ### Pieces of an apply body -/

/-- What a piece of LED_BODY leaves: the light registers, the transients, the records it has sent, and the environment's
answers after them. -/
structure BodyUpdate where
  lights : LightArray
  scratch : Scratch
  sent : List XmitRecord
  transport : List SinkAnswer
  drawn : Nat

/-- The machine after a piece of LED_BODY. -/
def BodyUpdate.on (r : BodyUpdate) (s : State) : State :=
  { s with
    led := { s.led with lights := r.lights, scratch := r.scratch, xmitLog := s.led.xmitLog ++ r.sent }
    env := { s.env with transport := r.transport, drawn := r.drawn } }

/-- One update and then another. -/
def BodyUpdate.andThen (r q : BodyUpdate) : BodyUpdate := { q with sent := r.sent ++ q.sent }

theorem BodyUpdate.on_on (r q : BodyUpdate) (s : State) : q.on (r.on s) = (r.andThen q).on s := by
  simp [BodyUpdate.on, BodyUpdate.andThen]

/-- `s` beside another buzzer unit and another caller table: the LED unit sees nothing of the first, and of the second only
its own caller. -/
def State.ledBeside (s : State) (b : BuzUnit) (m : List (Nat × Caller)) : State := { s with buz := b, callers := m }

/-- From `s`, `F` is one update of the body, whatever the buzzer unit and the callers are. -/
def PieceAt (F : State → State) (s : State) : Prop :=
  ∃ r : BodyUpdate, ∀ b m, F (s.ledBeside b m) = r.on (s.ledBeside b m)

theorem PieceAt.comp {F G : State → State} {s : State} {r : BodyUpdate}
    (hF : ∀ b m, F (s.ledBeside b m) = r.on (s.ledBeside b m)) (hG : PieceAt G (r.on s)) :
    PieceAt (fun u => G (F u)) s := by
  obtain ⟨q, hq⟩ := hG
  refine ⟨r.andThen q, fun b m => ?_⟩
  calc G (F (s.ledBeside b m)) = G ((r.on s).ledBeside b m) := by rw [hF]; rfl
    _ = q.on (r.on (s.ledBeside b m)) := hq b m
    _ = (r.andThen q).on (s.ledBeside b m) := r.on_on q _

/-- Computing the registers and the transients from the LED unit and the parameters is a piece. -/
theorem pieceAt_of_led (L : Params → LedUnit → LightArray) (X : Params → LedUnit → Scratch) (s : State) :
    PieceAt (fun u => { u with led := { u.led with lights := L u.params u.led, scratch := X u.params u.led } }) s :=
  ⟨⟨L s.params s.led, X s.params s.led, [], s.env.transport, s.env.drawn⟩, fun b m => by
    simp [BodyUpdate.on, State.ledBeside]⟩

theorem pieceAt_setScratch (x : Scratch) (s : State) : PieceAt (fun u => u.setScratch x) s :=
  pieceAt_of_led (fun _ u => u.lights) (fun _ _ => x) s

theorem pieceAt_decodeFails (e : DecodeError) (s : State) : PieceAt (decodeFails e) s :=
  pieceAt_of_led (fun _ u => u.lights) (fun _ u => { u.scratch with decode := .failed e, staged := [] }) s

theorem pieceAt_decodeGoesOn (q : Nat) (s : State) : PieceAt (decodeGoesOn q) s :=
  pieceAt_of_led (fun _ u => u.lights) (fun _ u => { u.scratch with decode := .pending, cursor := q }) s

theorem pieceAt_decodeSucceeds (s : State) : PieceAt decodeSucceeds s :=
  pieceAt_of_led (fun _ u => writeLights u.lights u.scratch.staged)
    (fun _ u => { u.scratch with decode := .succeeded, staged := [] }) s

theorem pieceAt_encodeOp (s : State) : PieceAt encodeOp s :=
  pieceAt_of_led (fun _ u => u.lights) (fun _ u => { u.scratch with frame := some (encodeFrame u.lights) }) s

theorem pieceAt_entryWriteOp (i : LightIndex) (v : Rgb) (s : State) : PieceAt (entryWriteOp i v) s := by
  rw [funext (entryWriteOp_eq i v)]
  exact pieceAt_of_led (fun p u => if p.applyAtomic then u.lights else u.lights.set i v)
    (fun p u => if p.applyAtomic then { u.scratch with staged := u.scratch.staged ++ [(i, v)] } else u.scratch) s

/-- A good entry's write, and then one more piece. -/
theorem pieceAt_after_entryWriteOp {G : State → State} (hG : ∀ u, PieceAt G u) (i : LightIndex) (v : Rgb) (s : State) :
    PieceAt (fun u => G (entryWriteOp i v u)) s := by
  obtain ⟨r, hr⟩ := pieceAt_entryWriteOp i v s
  exact PieceAt.comp hr (hG _)

theorem pieceAt_entryOp (text : List Byte) (pos : Nat) (s : State) : PieceAt (entryOp text pos) s := by
  cases hd : decodeEntry s.params text pos with
  | error e =>
    obtain ⟨r, hr⟩ := pieceAt_decodeFails e s
    exact ⟨r, fun b m => by rw [← hr]; simp [entryOp, State.ledBeside, hd]⟩
  | ok d =>
    cases hn : nextEntry s.params text d.stop with
    | some q =>
      obtain ⟨r, hr⟩ := pieceAt_after_entryWriteOp (pieceAt_decodeGoesOn q) d.index d.rgb s
      exact ⟨r, fun b m => by rw [← hr]; simp [entryOp, State.ledBeside, hd, hn]⟩
    | none =>
      obtain ⟨r, hr⟩ := pieceAt_after_entryWriteOp pieceAt_decodeSucceeds d.index d.rgb s
      exact ⟨r, fun b m => by rw [← hr]; simp [entryOp, State.ledBeside, hd, hn]⟩

/-- The transport sink's answer uses up a settled answer or a draw, and leaves the other answers. -/
theorem afterTransport_eq (s : State) :
    s.afterTransport =
      { s.env with transport := s.afterTransport.transport, drawn := s.afterTransport.drawn } := by
  unfold State.afterTransport
  cases s.env.transport <;> rfl

theorem pieceAt_transmitFrame (frame : List Byte) (s : State) : PieceAt (fun u => u.transmitFrame frame) s := by
  refine ⟨⟨s.led.lights, { s.led.scratch with answer := some s.transportAnswer }, [⟨frame, s.transportAnswer⟩],
    s.afterTransport.transport, s.afterTransport.drawn⟩, fun b m => ?_⟩
  have henv : (s.ledBeside b m).afterTransport = s.afterTransport := rfl
  simp only [State.transmitFrame, henv]
  rw [afterTransport_eq s]
  rfl

/-- The decode loop is one piece: ENTRY, and then the rest of the loop. -/
theorem pieceAt_decodeLoop (buf : List Byte) (fuel : Nat) (s : State) : PieceAt (decodeLoop buf fuel) s := by
  induction fuel generalizing s with
  | zero => exact pieceAt_decodeFails .missingColon s
  | succ n ih =>
    obtain ⟨r, hr⟩ := pieceAt_entryOp buf s.led.scratch.cursor s
    have hloop (b m) : decodeLoop buf (n + 1) (s.ledBeside b m) =
        if r.scratch.decode = .pending then decodeLoop buf n (r.on (s.ledBeside b m)) else r.on (s.ledBeside b m) := by
      have hentry : entryOp buf (s.ledBeside b m).led.scratch.cursor (s.ledBeside b m) = r.on (s.ledBeside b m) := hr b m
      have hdecode : (r.on (s.ledBeside b m)).led.scratch.decode = r.scratch.decode := rfl
      simp only [decodeLoop, hentry, hdecode]
      cases r.scratch.decode <;> simp
    by_cases hp : r.scratch.decode = .pending
    · obtain ⟨q, hq⟩ := PieceAt.comp hr (ih (r.on s))
      exact ⟨q, fun b m => by rw [hloop, if_pos hp, ← hr]; exact hq b m⟩
    · exact ⟨r, fun b m => by rw [hloop, if_neg hp]⟩

/-- The decode step of LED_BODY, from transients at rest. -/
theorem pieceAt_decode (buf : List Byte) (s : State) :
    PieceAt (fun u => decodeLoop buf (buf.length + 1) (u.setScratch {})) s := by
  obtain ⟨r, hr⟩ := pieceAt_setScratch {} s
  exact PieceAt.comp (F := fun u => u.setScratch {}) hr (pieceAt_decodeLoop buf (buf.length + 1) _)

/-- ENCODE and TRANSMIT of its frame. -/
theorem pieceAt_encode_transmit (s : State) :
    PieceAt (fun u => (encodeOp u).transmitFrame (encodeFrame u.led.lights)) s := by
  obtain ⟨r, hr⟩ := pieceAt_encodeOp s
  exact PieceAt.comp hr (pieceAt_transmitFrame (encodeFrame s.led.lights) (r.on s))

/-- LED_BODY is one update of the body and then the exit (R141). -/
theorem ledBody_update (c : Nat) (buf : List Byte) (s : State) :
    ∃ (r : BodyUpdate) (e : OpOutcome),
      ∀ b m, ledBody c buf (s.ledBeside b m) = finishApply c e (r.on (s.ledBeside b m)) := by
  obtain ⟨r, hr⟩ := pieceAt_decode buf s
  have hcases (b m) := ledBody_cases c buf (s.ledBeside b m)
  have hdecode (b m) : (r.on (s.ledBeside b m)).led.scratch.decode = r.scratch.decode := rfl
  simp only [show ∀ b m, decodeLoop buf (buf.length + 1) ((s.ledBeside b m).setScratch {}) = r.on (s.ledBeside b m)
    from hr, hdecode] at hcases
  by_cases hd : ∃ e, r.scratch.decode = .failed e
  · obtain ⟨e, he⟩ := hd
    exact ⟨r, e.outcome, fun b m => by simpa [he] using hcases b m⟩
  · obtain ⟨q, hq⟩ := pieceAt_encode_transmit (r.on s)
    refine ⟨r.andThen q, transmitOutcome (some (r.on s).transportAnswer), fun b m => ?_⟩
    rcases hcases b m with ⟨e, he, -⟩ | ⟨-, hbody⟩
    · exact absurd ⟨e, he⟩ hd
    · rw [hbody, ← r.on_on]
      exact congrArg (finishApply c _) (hq b m)

/-! ### The acts of the LED unit -/

/-- One atomic step of the LED unit. -/
inductive LedAct where
  /-- no step is enabled -/
  | stay
  /-- the operation ends without the lock (R146, R191, R206) -/
  | refuse (e : OpOutcome)
  /-- the text is captured (R146) -/
  | capture (text : List Byte)
  /-- the lock is taken (R147) -/
  | acquire (buf : List Byte)
  /-- the body runs and the lock is released (R141) -/
  | body (r : BodyUpdate) (e : OpOutcome)

/-- The machine after an act of caller `c`. -/
def LedAct.on (c : Nat) (s : State) : LedAct → State
  | .stay => s
  | .refuse e => s.endOp c e
  | .capture text => s.setPhase c (.ledWaiting text)
  | .acquire buf => (s.setLedLock (.held c)).setPhase c (.ledHolding buf)
  | .body r e => finishApply c e (r.on s)

/-- When an act may be taken. -/
def LedAct.Enabled (c : Nat) (s : State) : LedAct → Prop
  | .stay => True
  | .refuse _ => s.phase c = .idle ∨ ∃ buf, s.phase c = .ledWaiting buf
  | .capture text => s.phase c = .idle ∧ s.led.isOpen = true ∧ text.length ≤ s.params.cmdMaxLen
  | .acquire buf => s.phase c = .ledWaiting buf ∧ s.led.lock = .free
  | .body _ _ => ∃ buf, s.phase c = .ledHolding buf

/-- From `s`, `F` is one enabled act of caller `c`, whatever the buzzer unit and the other callers are. -/
def LedActAt (c : Nat) (F : State → State) (s : State) : Prop :=
  ∃ a : LedAct, a.Enabled c s ∧
    ∀ b m, readCaller m c = s.caller c → F (s.ledBeside b m) = a.on c (s.ledBeside b m)

theorem phase_ledBeside {s : State} {c : Nat} {m : List (Nat × Caller)} (b : BuzUnit)
    (h : readCaller m c = s.caller c) : (s.ledBeside b m).phase c = s.phase c :=
  congrArg Caller.phase h

theorem ledAccept_act (c : Nat) (text : List Byte) (s : State) (hp : s.phase c = .idle) :
    LedActAt c (ledAccept c text) s := by
  by_cases ho : s.led.isOpen = false
  · exact ⟨.refuse .deviceUnavailable, .inl hp, fun b m _ => by simp [ledAccept, LedAct.on, State.ledBeside, ho]⟩
  by_cases hl : s.params.cmdMaxLen < text.length
  · exact ⟨.refuse .oversizeError, .inl hp, fun b m _ => by simp [ledAccept, LedAct.on, State.ledBeside, ho, hl]⟩
  · exact ⟨.capture text, ⟨hp, by simpa using ho, by omega⟩, fun b m _ => by
      simp [ledAccept, LedAct.on, State.ledBeside, ho, hl]⟩

theorem ledAcquire_act (c : Nat) (buf : List Byte) (s : State) (hp : s.phase c = .ledWaiting buf) :
    LedActAt c (ledAcquire c buf) s := by
  cases hl : s.led.lock with
  | free => exact ⟨.acquire buf, ⟨hp, hl⟩, fun b m _ => by simp [ledAcquire, LedAct.on, State.ledBeside, hl]⟩
  | held d => exact ⟨.stay, trivial, fun b m _ => by simp [ledAcquire, LedAct.on, State.ledBeside, hl]⟩

theorem applyStep_act (c : Nat) (text : List Byte) (s : State) : LedActAt c (applyStep c text) s := by
  cases hp : s.phase c with
  | idle =>
    obtain ⟨a, hen, ha⟩ := ledAccept_act c text s hp
    exact ⟨a, hen, fun b m h => by rw [← ha b m h]; simp [applyStep, phase_ledBeside b h, hp]⟩
  | ledWaiting buf =>
    obtain ⟨a, hen, ha⟩ := ledAcquire_act c buf s hp
    exact ⟨a, hen, fun b m h => by rw [← ha b m h]; simp [applyStep, phase_ledBeside b h, hp]⟩
  | ledHolding buf =>
    obtain ⟨r, e, hr⟩ := ledBody_update c buf s
    exact ⟨.body r e, ⟨buf, hp⟩, fun b m h => by simp [applyStep, phase_ledBeside b h, hp, hr, LedAct.on]⟩
  | buzHolding f =>
    exact ⟨.stay, trivial, fun b m h => by simp [applyStep, phase_ledBeside b h, hp, LedAct.on]⟩

theorem lightOnStep_act (c : Nat) (pins : List Nat) (colors : List (List Byte)) (s : State) :
    LedActAt c (lightOnStep c pins colors) s := by
  have hparams (b m) : (s.ledBeside b m).params = s.params := rfl
  by_cases hbad : s.phase c = .idle ∧ badLightArgs s.params pins colors = true
  · exact ⟨.refuse .argError, .inl hbad.1, fun b m h => by
      simp [lightOnStep, phase_ledBeside b h, hparams, hbad, LedAct.on]⟩
  · obtain ⟨a, hen, ha⟩ := applyStep_act c (buildText pins colors) s
    exact ⟨a, hen, fun b m h => by
      rw [← ha b m h, lightOnStep, phase_ledBeside b h, hparams, if_neg hbad]⟩

/-- LED_INTERRUPT ends a wait, or is no step (R145, R206). -/
theorem ledInterrupt_act (c : Nat) (s : State) : ∃ a : LedAct, a.Enabled c s ∧ ledInterrupt c s = a.on c s := by
  rcases ledInterrupt_cases c s with ⟨buf, hp, h⟩ | ⟨-, h⟩
  · exact ⟨.refuse .interruptedError, .inr ⟨buf, hp⟩, h⟩
  · exact ⟨.stay, trivial, h⟩

/-- What an LED instruction does from `s`: an enabled act of its caller, or, while the caller holds the lock, a piece of the
body. -/
inductive LedEffect (s : State) : (State → State) → Prop where
  | act (a : LedAct) (enabled : a.Enabled s.cur s) : LedEffect s (fun u => a.on s.cur u)
  | piece (r : BodyUpdate) (buf : List Byte) (holding : s.phase s.cur = .ledHolding buf) : LedEffect s r.on

/-- Every LED instruction that a caller starts is one enabled act of its caller. -/
theorem exec_led_act {i : Instr} (hbuz : i.isBuzzer = false) (hint : i.isInternal = false) (s : State) :
    ∃ F, LedActAt s.cur F s ∧ ∀ b m, exec i (s.ledBeside b m) = .next (F (s.ledBeside b m)) := by
  cases i with
  | apply text => exact ⟨_, applyStep_act s.cur text s, fun _ _ => rfl⟩
  | lightOn pins colors => exact ⟨_, lightOnStep_act s.cur pins colors s, fun _ _ => rfl⟩
  | lightOff => exact ⟨_, lightOnStep_act s.cur allPins blackColours s, fun _ _ => rfl⟩
  | entry | entryWrite | encode | transmit => cases hint
  | setfreqOff | setfreqTone => cases hbuz

/-- A caller that does not hold the LED lock is not inside a body. -/
theorem insideBody_of_not_holding {F : State → State} {s : State} (h : ∀ buf, s.phase s.cur ≠ .ledHolding buf) :
    insideBody F s = s := by
  unfold insideBody
  cases hp : s.phase s.cur with
  | ledHolding buf => exact absurd hp (h buf)
  | idle | ledWaiting | buzHolding => rfl

/-- An internal operation is `insideBody` of one piece (R80, R108). -/
theorem exec_internal_piece {i : Instr} (hint : i.isInternal = true) (s : State) :
    ∃ F, PieceAt F s ∧ ∀ u : State, exec i u = .next (insideBody F u) := by
  cases i with
  | entry text pos => exact ⟨_, pieceAt_entryOp text pos s, fun _ => rfl⟩
  | entryWrite index rgb => exact ⟨_, pieceAt_entryWriteOp index rgb s, fun _ => rfl⟩
  | encode => exact ⟨_, pieceAt_encodeOp s, fun _ => rfl⟩
  | transmit frame =>
    by_cases hl : frame.length = Config.frameLen
    · exact ⟨_, pieceAt_transmitFrame frame s, fun u => by simp [exec, execTransmit, hl]⟩
    · exact ⟨_, pieceAt_of_led (fun _ u => u.lights) (fun _ u => u.scratch) s, fun u => by
        simp [exec, execTransmit, hl]⟩
  | apply | lightOn | lightOff | setfreqOff | setfreqTone => cases hint

/-- An LED instruction has one effect, whatever the buzzer unit and the other callers are (R41). -/
theorem exec_led_effect {i : Instr} (hbuz : i.isBuzzer = false) (s : State) :
    ∃ A, LedEffect s A ∧ ∀ b m, readCaller m s.cur = s.caller s.cur →
      exec i (s.ledBeside b m) = .next (A (s.ledBeside b m)) := by
  cases hint : i.isInternal with
  | false =>
    obtain ⟨F, ⟨a, hen, ha⟩, hexec⟩ := exec_led_act hbuz hint s
    exact ⟨_, .act a hen, fun b m h => by rw [hexec, ha b m h]⟩
  | true =>
    obtain ⟨F, ⟨r, hr⟩, hexec⟩ := exec_internal_piece hint s
    by_cases hhold : ∃ buf, s.phase s.cur = .ledHolding buf
    · obtain ⟨buf, hp⟩ := hhold
      refine ⟨_, .piece r buf hp, fun b m h => ?_⟩
      have hp' : (s.ledBeside b m).phase (s.ledBeside b m).cur = .ledHolding buf := (phase_ledBeside b h).trans hp
      rw [hexec, insideBody, hp', ← hr]
      rfl
    · refine ⟨_, .act .stay trivial, fun b m h => ?_⟩
      rw [hexec, insideBody_of_not_holding fun buf hp => hhold ⟨buf, (phase_ledBeside b h).symm.trans hp⟩]
      rfl

/-! ### The acts of the buzzer unit -/

/-- What BUZ_BODY leaves, up to the lock and its caller: ToneState, the timer-sink calls it has made, whether the mark
`TimerSinkFault` is set, and the environment's answers after them. -/
structure TimerUpdate where
  tone : ToneState
  calls : List TimerCall
  fault : Bool
  timer : List SinkAnswer
  drawn : Nat

/-- The machine after the timer-sink calls of BUZ_BODY. -/
def TimerUpdate.on (r : TimerUpdate) (s : State) : State :=
  { s with
    buz := { s.buz with tone := r.tone, timerLog := s.buz.timerLog ++ r.calls }
    marks := { s.marks with timerSinkFault := r.fault }
    env := { s.env with timer := r.timer, drawn := r.drawn } }

/-- Nothing done. -/
def TimerUpdate.unchanged (s : State) : TimerUpdate := ⟨s.buz.tone, [], s.marks.timerSinkFault, s.env.timer, s.env.drawn⟩

/-- One timer-sink call. -/
def TimerUpdate.call (s : State) (k : TimerCall) : TimerUpdate :=
  ⟨s.buz.tone, [k], s.marks.timerSinkFault || decide (s.timerAnswer = .fail), s.afterTimer.timer, s.afterTimer.drawn⟩

/-- One update and then another. -/
def TimerUpdate.andThen (r q : TimerUpdate) : TimerUpdate := { q with calls := r.calls ++ q.calls }

theorem TimerUpdate.on_on (r q : TimerUpdate) (s : State) : q.on (r.on s) = (r.andThen q).on s := by
  simp [TimerUpdate.on, TimerUpdate.andThen]

/-- One more timer-sink call, after `r` from `s`. -/
def TimerUpdate.andCall (r : TimerUpdate) (s : State) (k : TimerCall) : TimerUpdate := r.andThen (.call (r.on s) k)

/-- Every `Configure` of the calls is within the bound, and an enabled tone is the one before or within the bound (R163,
R165). -/
def TimerUpdate.InRange (r : TimerUpdate) (s : State) : Prop :=
  (∀ d p, TimerCall.configure d p ∈ r.calls → d = p / 2 ∧ p ≤ s.params.maxPeriodNs) ∧
  (r.tone.enabled = true →
    r.tone = s.buz.tone ∨ (r.tone.frequencyHz ≠ 0 ∧ r.tone.period ≤ s.params.maxPeriodNs))

/-- `s` beside another LED unit and another caller table. -/
def State.buzBeside (s : State) (l : LedUnit) (m : List (Nat × Caller)) : State := { s with led := l, callers := m }

theorem phase_buzBeside {s : State} {c : Nat} {m : List (Nat × Caller)} (l : LedUnit)
    (h : readCaller m c = s.caller c) : (s.buzBeside l m).phase c = s.phase c :=
  congrArg Caller.phase h

@[simp] theorem buzBeside_params (s : State) (l : LedUnit) (m : List (Nat × Caller)) :
    (s.buzBeside l m).params = s.params := rfl

@[simp] theorem buzBeside_buz (s : State) (l : LedUnit) (m : List (Nat × Caller)) :
    (s.buzBeside l m).buz = s.buz := rfl

@[simp] theorem buzBeside_timerAnswer (s : State) (l : LedUnit) (m : List (Nat × Caller)) :
    (s.buzBeside l m).timerAnswer = s.timerAnswer := rfl

/-- The timer sink's answer uses up a settled answer or a draw, or nothing, and leaves the other answers. -/
theorem afterTimer_eq (s : State) :
    s.afterTimer = { s.env with timer := s.afterTimer.timer, drawn := s.afterTimer.drawn } := by
  unfold State.afterTimer
  cases s.params.timerSinkFallible
  · rfl
  · cases s.env.timer <;> rfl

theorem timerCall_eq (s : State) (k : TimerCall) (l : LedUnit) (m : List (Nat × Caller)) :
    (s.buzBeside l m).timerCall k = (TimerUpdate.call s k).on (s.buzBeside l m) := by
  have henv : (s.buzBeside l m).afterTimer = s.afterTimer := rfl
  simp only [State.timerCall, henv]
  rw [afterTimer_eq s]
  rfl

theorem timerCall_on_eq (r : TimerUpdate) (s : State) (k : TimerCall) (l : LedUnit) (m : List (Nat × Caller)) :
    (r.on (s.buzBeside l m)).timerCall k = (r.andCall s k).on (s.buzBeside l m) := by
  rw [TimerUpdate.andCall, ← TimerUpdate.on_on]
  exact timerCall_eq (r.on s) k l m

theorem setTone_on (r : TimerUpdate) (s : State) (t : ToneState) :
    (r.on s).setTone t = TimerUpdate.on { r with tone := t } s := rfl

theorem unchanged_on (s : State) (l : LedUnit) (m : List (Nat × Caller)) :
    (TimerUpdate.unchanged s).on (s.buzBeside l m) = s.buzBeside l m := by
  simp [TimerUpdate.unchanged, TimerUpdate.on, State.buzBeside]

/-- One atomic step of the buzzer unit. -/
inductive BuzAct where
  /-- no step is enabled -/
  | stay
  /-- the operation ends without the lock (R162) -/
  | refuse (e : OpOutcome)
  /-- the lock is taken (R162) -/
  | take (f : Freq)
  /-- a timer-sink call fails, and the body stops there (R171; log 10) -/
  | fail (r : TimerUpdate)
  /-- the body runs and the lock is released (R167) -/
  | body (r : TimerUpdate) (e : OpOutcome)

/-- The machine after an act of caller `c`. -/
def BuzAct.on (c : Nat) (s : State) : BuzAct → State
  | .stay => s
  | .refuse e => s.endOp c e
  | .take f => (s.setBuzLock (.held c)).setPhase c (.buzHolding f)
  | .fail r => r.on s
  | .body r e => finishSetFreq c e (r.on s)

/-- When an act may be taken. -/
def BuzAct.Enabled (c : Nat) (s : State) : BuzAct → Prop
  | .stay => True
  | .refuse _ => s.phase c = .idle
  | .take _ => s.phase c = .idle ∧ s.buz.isOpen = true ∧ s.buz.lock = .free
  | .fail r => (∃ f, s.phase c = .buzHolding f) ∧ r.InRange s
  | .body r _ => (∃ f, s.phase c = .buzHolding f) ∧ r.InRange s

/-- From `s`, `F` is one enabled act of caller `c`, whatever the LED unit and the other callers are. -/
def BuzActAt (c : Nat) (F : State → State) (s : State) : Prop :=
  ∃ a : BuzAct, a.Enabled c s ∧
    ∀ l m, readCaller m c = s.caller c → F (s.buzBeside l m) = a.on c (s.buzBeside l m)

theorem buzTry_act (c : Nat) (f : Freq) (s : State) (hp : s.phase c = .idle) : BuzActAt c (buzTry c f) s := by
  by_cases ho : s.buz.isOpen = false
  · exact ⟨.refuse .deviceUnavailable, hp, fun l m _ => by simp [buzTry, BuzAct.on, ho]⟩
  cases hl : s.buz.lock with
  | free => exact ⟨.take f, ⟨hp, by simpa using ho, hl⟩, fun l m _ => by simp [buzTry, BuzAct.on, ho, hl]⟩
  | held d => exact ⟨.refuse .busyError, hp, fun l m _ => by simp [buzTry, BuzAct.on, ho, hl]⟩

/-- The `f = 0` branch of BUZ_BODY: only `Disable` is called, and no tone is enabled (R164). -/
theorem buzOff_act (c : Nat) (s : State) (hp : ∃ f, s.phase c = .buzHolding f) : BuzActAt c (buzOff c) s := by
  cases ha : s.timerAnswer with
  | fail =>
    exact ⟨.fail (.call s .disable), ⟨hp, by simp [TimerUpdate.call], fun _ => .inl rfl⟩, fun l m _ => by
      simp [buzOff, ha, timerCall_eq, BuzAct.on]⟩
  | ok =>
    refine ⟨.body { TimerUpdate.call s .disable with tone := toneOff s.buz.tone } .ok,
      ⟨hp, by simp [TimerUpdate.call], by simp [toneOff]⟩, fun l m _ => ?_⟩
    simp [buzOff, ha, timerCall_eq, setTone_on, BuzAct.on]
    rfl

/-- The call of `Configure` for a tone of `f` (R165). -/
def TimerUpdate.configured (s : State) (f : Freq) : TimerUpdate := .call s (.configure (dutyNs f) (periodNs f))

theorem configured_calls_inRange {s : State} {f : Freq} (h : periodNs f ≤ s.params.maxPeriodNs) :
    ∀ d p, TimerCall.configure d p ∈ (TimerUpdate.configured s f).calls → d = p / 2 ∧ p ≤ s.params.maxPeriodNs := by
  simp only [TimerUpdate.configured, TimerUpdate.call, List.mem_singleton, TimerCall.configure.injEq]
  rintro d p ⟨rfl, rfl⟩
  exact ⟨rfl, h⟩

/-- `Enable` adds no `Configure` to the calls. -/
theorem configure_mem_andCall_enable (r : TimerUpdate) (s : State) (d p : Nat) :
    TimerCall.configure d p ∈ (r.andCall s .enable).calls ↔ TimerCall.configure d p ∈ r.calls := by
  simp [TimerUpdate.andCall, TimerUpdate.andThen, TimerUpdate.call]

/-- `TimerEnable()` after `Configure`: the tone is on and within the bound, or the call fails and the tone stays (R166). -/
theorem buzEnable_act (c : Nat) (f : Freq) (s : State) (hf : f ≠ 0) (hle : periodNs f ≤ s.params.maxPeriodNs)
    (hp : ∃ f, s.phase c = .buzHolding f) :
    BuzActAt c (fun u => buzEnable c f (u.timerCall (.configure (dutyNs f) (periodNs f)))) s := by
  have hconf (l m) : (s.buzBeside l m).timerCall (.configure (dutyNs f) (periodNs f)) =
      (TimerUpdate.configured s f).on (s.buzBeside l m) := timerCall_eq s _ l m
  have hcalls : ∀ d p, TimerCall.configure d p ∈ ((TimerUpdate.configured s f).andCall s .enable).calls →
      d = p / 2 ∧ p ≤ s.params.maxPeriodNs := by
    simpa only [configure_mem_andCall_enable] using configured_calls_inRange hle
  have hanswer (l m) : ((TimerUpdate.configured s f).on (s.buzBeside l m)).timerAnswer =
      ((TimerUpdate.configured s f).on s).timerAnswer := rfl
  cases hb : ((TimerUpdate.configured s f).on s).timerAnswer with
  | fail =>
    exact ⟨.fail ((TimerUpdate.configured s f).andCall s .enable), ⟨hp, hcalls, fun _ => .inl rfl⟩, fun l m _ => by
      simp [buzEnable, hconf, hanswer, hb, timerCall_on_eq, BuzAct.on]⟩
  | ok =>
    exact ⟨.body { (TimerUpdate.configured s f).andCall s .enable with tone := toneOn f } .ok,
      ⟨hp, hcalls, fun _ => .inr ⟨hf, hle⟩⟩, fun l m _ => by
        simp [buzEnable, hconf, hanswer, hb, timerCall_on_eq, setTone_on, BuzAct.on]⟩

/-- The `f != 0` branch of BUZ_BODY: the range check stands before `Configure` and `Enable` (R165 to R167). -/
theorem buzTone_act (c : Nat) (f : Freq) (s : State) (hf : f ≠ 0) (hp : ∃ f, s.phase c = .buzHolding f) :
    BuzActAt c (buzTone c f) s := by
  by_cases hmax : s.params.maxPeriodNs < periodNs f
  · exact ⟨.body (.unchanged s) .periodOverflow, ⟨hp, by simp [TimerUpdate.unchanged], fun _ => .inl rfl⟩,
      fun l m _ => by simp [buzTone, hmax, BuzAct.on, unchanged_on]⟩
  have hle : periodNs f ≤ s.params.maxPeriodNs := by omega
  cases ha : s.timerAnswer with
  | fail =>
    exact ⟨.fail (.configured s f), ⟨hp, configured_calls_inRange hle, fun _ => .inl rfl⟩, fun l m _ => by
      simp [buzTone, hmax, ha, timerCall_eq, BuzAct.on, TimerUpdate.configured]⟩
  | ok =>
    obtain ⟨a, hen, hact⟩ := buzEnable_act c f s hf hle hp
    exact ⟨a, hen, fun l m h => by rw [← hact l m h]; simp [buzTone, hmax, ha]⟩

theorem buzBody_act (c : Nat) (f : Freq) (s : State) (hp : ∃ f, s.phase c = .buzHolding f) :
    BuzActAt c (buzBody c f) s := by
  by_cases hf : f = 0
  · obtain ⟨a, hen, ha⟩ := buzOff_act c s hp
    exact ⟨a, hen, fun l m h => by rw [← ha l m h, buzBody, if_pos hf]⟩
  · obtain ⟨a, hen, ha⟩ := buzTone_act c f s hf hp
    exact ⟨a, hen, fun l m h => by rw [← ha l m h, buzBody, if_neg hf]⟩

theorem setFreqStep_act (c : Nat) (f : Freq) (s : State) : BuzActAt c (setFreqStep c f) s := by
  cases hp : s.phase c with
  | idle =>
    obtain ⟨a, hen, ha⟩ := buzTry_act c f s hp
    exact ⟨a, hen, fun l m h => by rw [← ha l m h]; simp [setFreqStep, phase_buzBeside l h, hp]⟩
  | buzHolding g =>
    by_cases hg : g = f
    · obtain ⟨a, hen, ha⟩ := buzBody_act c g s ⟨g, hp⟩
      exact ⟨a, hen, fun l m h => by rw [← ha l m h]; simp [setFreqStep, phase_buzBeside l h, hp, hg]⟩
    · exact ⟨.stay, trivial, fun l m h => by simp [setFreqStep, phase_buzBeside l h, hp, hg, BuzAct.on]⟩
  | ledWaiting | ledHolding =>
    exact ⟨.stay, trivial, fun l m h => by simp [setFreqStep, phase_buzBeside l h, hp, BuzAct.on]⟩

/-- Every buzzer instruction is one enabled act of its caller, whatever the LED unit and the other callers are (R41). -/
theorem exec_buz_act {i : Instr} (hbuz : i.isBuzzer = true) (s : State) :
    ∃ a : BuzAct, a.Enabled s.cur s ∧ ∀ l m, readCaller m s.cur = s.caller s.cur →
      exec i (s.buzBeside l m) = .next (a.on s.cur (s.buzBeside l m)) := by
  obtain ⟨f, hf⟩ : ∃ f, ∀ u : State, exec i u = .next (setFreqStep u.cur f u) := by
    cases i with
    | setfreqOff => exact ⟨0, fun _ => rfl⟩
    | setfreqTone f => exact ⟨f, fun _ => rfl⟩
    | apply | entry | entryWrite | encode | transmit | lightOn | lightOff => cases hbuz
  obtain ⟨a, hen, ha⟩ := setFreqStep_act s.cur f s
  exact ⟨a, hen, fun l m h => by rw [hf, ← ha l m h]; rfl⟩

end Sys2Proof.Machine
end

section
/-!
SUPPORT. What an instruction leaves unchanged, and what it cannot see: read off the acts of the two units.
-/

namespace Sys2Proof.Machine

/-! ### Frames -/

/-- What an LED instruction of caller `c` never changes (R41, R202, R203). -/
structure LedFrame (c : Nat) (s t : State) : Prop where
  buz : t.buz = s.buz
  params : t.params = s.params
  marks : t.marks = s.marks
  cur : t.cur = s.cur
  sched : t.sched = s.sched
  isOpen : t.led.isOpen = s.led.isOpen
  timer : t.env.timer = s.env.timer
  opens : t.env.opens = s.env.opens
  others : ∀ d, d ≠ c → t.caller d = s.caller d
  ops : (t.caller c).ops = (s.caller c).ops

theorem LedAct.frame (c : Nat) (s : State) (a : LedAct) : LedFrame c s (a.on c s) := by
  cases a with
  | stay => exact ⟨rfl, rfl, rfl, rfl, rfl, rfl, rfl, rfl, fun _ _ => rfl, rfl⟩
  | refuse e =>
    exact ⟨rfl, rfl, rfl, rfl, rfl, rfl, rfl, rfl, fun d => caller_endOp_other s c d e, by simp [LedAct.on]⟩
  | capture text =>
    exact ⟨rfl, rfl, rfl, rfl, rfl, rfl, rfl, rfl, fun d => caller_setPhase_other s c d _, by simp [LedAct.on]⟩
  | acquire buf =>
    exact ⟨rfl, rfl, rfl, rfl, rfl, rfl, rfl, rfl, fun d => caller_setPhase_other _ c d _, by simp [LedAct.on]⟩
  | body r e =>
    exact ⟨rfl, rfl, rfl, rfl, rfl, rfl, rfl, rfl, fun d => caller_endOp_other _ c d e, by
      simp [LedAct.on, finishApply, BodyUpdate.on]⟩

theorem LedEffect.frame {s : State} {A : State → State} (h : LedEffect s A) : LedFrame s.cur s (A s) := by
  cases h with
  | act a _ => exact a.frame s.cur s
  | piece r _ _ => exact ⟨rfl, rfl, rfl, rfl, rfl, rfl, rfl, rfl, fun _ _ => rfl, rfl⟩

/-- Unless the caller holds the LED lock, no LED instruction touches the registers, the transients, the log or the
environment (R22, R41). -/
theorem LedEffect.led_of_not_holding {s : State} {A : State → State} (h : LedEffect s A)
    (hp : ∀ buf, s.phase s.cur ≠ .ledHolding buf) :
    (A s).led.lights = s.led.lights ∧ (A s).led.scratch = s.led.scratch ∧ (A s).led.xmitLog = s.led.xmitLog ∧
      (A s).env = s.env := by
  cases h with
  | act a hen =>
    cases a with
    | stay | refuse | capture | acquire => exact ⟨rfl, rfl, rfl, rfl⟩
    | body r e =>
      obtain ⟨buf, hbuf⟩ := hen
      exact absurd hbuf (hp buf)
  | piece _ buf hbuf => exact absurd hbuf (hp buf)

/-- Settles O48: the instruction is one `LedEffect`, and its frame is that of the effect. -/
theorem ledInstructionsFrame : Obligations.LedInstructionsFrame := by
  intro i s hbuz
  obtain ⟨A, hA, hexec⟩ := exec_led_effect hbuz s
  have f := hA.frame
  exact ⟨A s, hexec s.buz s.callers rfl, f.buz, f.params, f.marks, f.cur, f.sched, f.isOpen, f.timer, f.opens,
    f.others, f.ops, hA.led_of_not_holding⟩

/-- What a buzzer instruction of caller `c` never changes (R41, R202, R203). -/
structure BuzFrame (c : Nat) (s t : State) : Prop where
  led : t.led = s.led
  params : t.params = s.params
  cur : t.cur = s.cur
  sched : t.sched = s.sched
  isOpen : t.buz.isOpen = s.buz.isOpen
  transport : t.env.transport = s.env.transport
  opens : t.env.opens = s.env.opens
  refusedWordSize : t.marks.refusedWordSize = s.marks.refusedWordSize
  refusedCloseBusy : t.marks.refusedCloseBusy = s.marks.refusedCloseBusy
  others : ∀ d, d ≠ c → t.caller d = s.caller d
  ops : (t.caller c).ops = (s.caller c).ops

theorem BuzAct.frame (c : Nat) (s : State) (a : BuzAct) : BuzFrame c s (a.on c s) := by
  cases a with
  | stay | fail => exact ⟨rfl, rfl, rfl, rfl, rfl, rfl, rfl, rfl, rfl, fun _ _ => rfl, rfl⟩
  | refuse e =>
    exact ⟨rfl, rfl, rfl, rfl, rfl, rfl, rfl, rfl, rfl, fun d => caller_endOp_other s c d e, by simp [BuzAct.on]⟩
  | take f =>
    exact ⟨rfl, rfl, rfl, rfl, rfl, rfl, rfl, rfl, rfl, fun d => caller_setPhase_other _ c d _, by simp [BuzAct.on]⟩
  | body r e =>
    exact ⟨rfl, rfl, rfl, rfl, rfl, rfl, rfl, rfl, rfl, fun d => caller_endOp_other _ c d e, by
      simp [BuzAct.on, finishSetFreq, TimerUpdate.on]⟩

/-- Unless the caller is in the buzzer's holding phase, no buzzer instruction touches ToneState, the log, the marks or the
environment (R26, R27, R41). -/
theorem BuzAct.buz_of_not_holding {c : Nat} {s : State} {a : BuzAct} (hen : a.Enabled c s)
    (hp : ∀ f, s.phase c ≠ .buzHolding f) :
    (a.on c s).buz.tone = s.buz.tone ∧ (a.on c s).buz.timerLog = s.buz.timerLog ∧ (a.on c s).marks = s.marks ∧
      (a.on c s).env = s.env := by
  cases a with
  | stay | refuse | take => exact ⟨rfl, rfl, rfl, rfl⟩
  | fail | body =>
    obtain ⟨⟨f, hf⟩, -⟩ := hen
    exact absurd hf (hp f)

/-- Settles O49: the instruction is one `BuzAct`, and its frame is that of the act. -/
theorem buzzerInstructionsFrame : Obligations.BuzzerInstructionsFrame := by
  intro i s hbuz
  obtain ⟨a, hen, hexec⟩ := exec_buz_act hbuz s
  have f := a.frame s.cur s
  exact ⟨a.on s.cur s, hexec s.led s.callers rfl, f.led, f.params, f.cur, f.sched, f.isOpen, f.transport, f.opens,
    f.refusedWordSize, f.refusedCloseBusy, f.others, f.ops, BuzAct.buz_of_not_holding hen⟩

/-! ### Independence -/

/-- `A` reads and writes of the callers only `c`: exchanging the caller table changes nothing else it does, its effect on
`c`'s entry depends on that entry alone, and every other entry stays. -/
structure OwnCallerOnly (c : Nat) (A : State → State) : Prop where
  rest : ∀ (s : State) (m : List (Nat × Caller)), ∃ n, A { s with callers := m } = { A s with callers := n }
  own : ∀ s u : State, u.caller c = s.caller c → (A u).caller c = (A s).caller c
  others : ∀ (s : State) (d : Nat), d ≠ c → (A s).caller d = s.caller d

/-- Such an `A`, from another table that agrees at `c`, leaves a table that has `c`'s new entry and is that other table
everywhere else. -/
theorem OwnCallerOnly.exchange {c : Nat} {A : State → State} (h : OwnCallerOnly c A) (s : State)
    (m : List (Nat × Caller)) (hm : readCaller m c = s.caller c) :
    ∃ n, A { s with callers := m } = { A s with callers := n } ∧
      readCaller n c = (A s).caller c ∧ ∀ d, d ≠ c → readCaller n d = readCaller m d := by
  obtain ⟨n, hn⟩ := h.rest s m
  have hread (d : Nat) : readCaller n d = (A { s with callers := m }).caller d := by rw [hn]; rfl
  exact ⟨n, hn, (hread c).trans (h.own s _ hm), fun d hd => (hread d).trans (h.others _ d hd)⟩

theorem LedAct.ownCallerOnly (c : Nat) (a : LedAct) : OwnCallerOnly c (fun u => a.on c u) where
  rest s m := by cases a <;> exact ⟨_, rfl⟩
  own s u h := by
    cases a with
    | stay => exact h
    | refuse | capture | acquire => simp [LedAct.on, h]
    | body => simp [LedAct.on, finishApply, BodyUpdate.on, h]
  others s := (a.frame c s).others

theorem LedEffect.ownCallerOnly {s : State} {A : State → State} (h : LedEffect s A) : OwnCallerOnly s.cur A := by
  cases h with
  | act a _ => exact a.ownCallerOnly s.cur
  | piece r _ _ => exact ⟨fun _ m => ⟨m, rfl⟩, fun _ _ h => h, fun _ _ _ => rfl⟩

/-- An LED instruction's effect is the same beside every buzzer unit. -/
theorem LedEffect.beside_buz {s : State} {A : State → State} (h : LedEffect s A) (b : BuzUnit) :
    A { s with buz := b } = { A s with buz := b } := by
  cases h with
  | act a _ => cases a <;> rfl
  | piece => rfl

theorem BuzAct.ownCallerOnly (c : Nat) (a : BuzAct) : OwnCallerOnly c (fun u => a.on c u) where
  rest s m := by cases a <;> exact ⟨_, rfl⟩
  own s u h := by
    cases a with
    | stay | fail => exact h
    | refuse | take => simp [BuzAct.on, h]
    | body => simp [BuzAct.on, finishSetFreq, TimerUpdate.on, h]
  others s := (a.frame c s).others

/-- A buzzer instruction's act does the same beside every LED unit. -/
theorem BuzAct.beside_led (c : Nat) (s : State) (a : BuzAct) (l : LedUnit) :
    a.on c { s with led := l } = { a.on c s with led := l } := by
  cases a <;> rfl

/-- Settles O50: the effect is chosen without the other unit and the other callers, and does not touch them. -/
theorem unitsDoNotInfluenceEachOther : Obligations.UnitsDoNotInfluenceEachOther := by
  intro i s t h
  cases hbuz : i.isBuzzer with
  | false =>
    obtain ⟨A, hA, hexec⟩ := exec_led_effect hbuz s
    obtain rfl : A s = t := Host.Outcome.next.inj ((hexec s.buz s.callers rfl).symm.trans h)
    refine ⟨fun _ => ⟨hA.frame.buz, fun b => ?_⟩, nofun, hA.frame.others, fun m hm => ?_⟩
    · exact (hexec b s.callers rfl).trans (congrArg Host.Outcome.next (hA.beside_buz b))
    · obtain ⟨n, hn, hown, hothers⟩ := hA.ownCallerOnly.exchange s m hm
      exact ⟨n, (hexec s.buz m hm).trans (congrArg Host.Outcome.next hn), hown, hothers⟩
  | true =>
    obtain ⟨a, -, hact⟩ := exec_buz_act hbuz s
    obtain rfl : a.on s.cur s = t := Host.Outcome.next.inj ((hact s.led s.callers rfl).symm.trans h)
    have f := a.frame s.cur s
    refine ⟨nofun, fun _ => ⟨f.led, fun l => ?_⟩, f.others, fun m hm => ?_⟩
    · exact (hact l s.callers rfl).trans (congrArg Host.Outcome.next (a.beside_led s.cur s l))
    · obtain ⟨n, hn, hown, hothers⟩ := (a.ownCallerOnly s.cur).exchange s m hm
      exact ⟨n, (hact s.led m hm).trans (congrArg Host.Outcome.next hn), hown, hothers⟩

end Sys2Proof.Machine
end

section
/-!
SUPPORT. The invariants. What a step can do is said once (`KeptByActs.step`): a property that the acts of both units, the
bookkeeping of a turn and a close keep is kept by every step, an open apart. Each invariant then gives these few cases.
-/

namespace Sys2Proof.Machine

/-! ### What every step keeps -/

/-- The parts of a step other than an open keep `P`. -/
structure KeptByActs (P : State → Prop) : Prop where
  /-- the event is taken, a caller's turn begins, a mark of a refusal is set -/
  bookkeeping : ∀ (u : State) (k : Marks) (d : Nat) (q : List Event), P u → P { u with marks := k, cur := d, sched := q }
  /-- a write is taken from its caller's list (R38) -/
  issued : ∀ (u : State) (c : Nat) (ops : List HostOp), P u → P (u.setCaller c { u.caller c with ops := ops })
  led : ∀ (u : State) (c : Nat) (a : LedAct), a.Enabled c u → P u → P (a.on c u)
  buz : ∀ (u : State) (c : Nat) (a : BuzAct), a.Enabled c u → P u → P (a.on c u)
  /-- a close, or an open that fails (R231, R232) -/
  close : ∀ (u : State) (v : Env), (∀ c, u.phase c = .idle) ∨ (u.led.isOpen = false ∧ u.buz.isOpen = false) →
    P u → P ({ u with env := v } : State).closeUnits

section
variable {P : State → Prop} (h : KeptByActs P)
include h

theorem KeptByActs.exec {i : Instr} {s t : State} (hint : i.isInternal = false) (hs : P s) (ht : exec i s = .next t) :
    P t := by
  cases hbuz : i.isBuzzer with
  | false =>
    obtain ⟨F, ⟨a, hen, ha⟩, hexec⟩ := exec_led_act hbuz hint s
    have hnext : Machine.exec i s = .next (F s) := hexec s.buz s.callers
    have hact : F s = a.on s.cur s := ha s.buz s.callers rfl
    obtain rfl : a.on s.cur s = t := by rw [← hact]; exact Host.Outcome.next.inj (hnext.symm.trans ht)
    exact h.led s s.cur a hen hs
  | true =>
    obtain ⟨a, hen, hact⟩ := exec_buz_act hbuz s
    obtain rfl : a.on s.cur s = t := Host.Outcome.next.inj ((hact s.led s.callers rfl).symm.trans ht)
    exact h.buz s s.cur a hen hs

theorem KeptByActs.issue {c : Nat} {s t : State} (hs : P s) (ht : issue c s = .next t) : P t := by
  rcases issue_cases c s with ⟨-, he⟩ | ⟨op, rest, i, -, hd, he⟩ | ⟨op, rest, -, -, he⟩ <;> rw [he] at ht
  · cases ht
    exact hs
  · exact h.exec (Laws.DecodedIsWellFormed.statement_any i s.params op hd).2 (h.issued s c rest hs) ht
  · cases ht
    exact h.bookkeeping _ _ _ _ (h.issued s c rest hs)

theorem KeptByActs.turn {c : Nat} {s t : State} (hs : P s) (ht : turn c s = .next t) : P t := by
  have hs' : P { s with cur := c } := h.bookkeeping s s.marks c s.sched hs
  rcases turn_cases c s with ⟨-, he⟩ | ⟨buf, -, he⟩ | ⟨f, -, he⟩ <;> rw [he] at ht
  · exact h.issue hs' ht
  · exact h.exec rfl hs' ht
  · exact h.exec (Laws.DecodedIsWellFormed.statement_freqInstr f).2 hs' ht

theorem KeptByActs.closeBlock {s : State} (hs : P s) : P (closeBlock s) := by
  rcases closeBlock_cases s with ⟨hidle, he⟩ | ⟨-, he⟩ <;> rw [he]
  · exact h.close s s.env (.inl (allIdle_phase hidle)) hs
  · exact h.bookkeeping s _ s.cur s.sched hs

theorem KeptByActs.openBlock {s t : State} (hopen : ∀ v, P s → P ({ s with env := v } : State).openUnits)
    (hs : P s) (ht : openBlock s = .next t) : P t := by
  rcases openBlock_cases s with ⟨-, he⟩ | ⟨-, -, -, he⟩ | ⟨hl, hb, -, he⟩ <;> rw [he] at ht <;> cases ht
  · exact hopen _ hs
  · exact h.close s _ (.inr ⟨hl, hb⟩) hs

/-- A step keeps what its parts keep, if an open keeps it too, or the step's event is no open. -/
theorem KeptByActs.step {s t : State}
    (hopen : s.sched.head? = some .openBlock → ∀ u v, P u → P ({ u with env := v } : State).openUnits)
    (hs : P s) (ht : step s = .next t) : P t := by
  obtain ⟨-, ⟨-, rfl⟩ | ⟨e, rest, hsched, ht⟩⟩ := step_next ht
  · exact hs
  have hs' : P { s with sched := rest } := h.bookkeeping s s.marks s.cur rest hs
  cases e with
  | turn c => exact h.turn hs' ht
  | interrupt c =>
    obtain ⟨a, hen, ha⟩ := ledInterrupt_act c { s with sched := rest }
    cases ht
    rw [ha]
    exact h.led _ c a hen hs'
  | openBlock => exact h.openBlock (hopen (by simp [hsched]) _) hs' ht
  | closeBlock =>
    cases ht
    exact h.closeBlock hs'

end

/-! ### The caller table -/

theorem callersWf_keptByActs : KeptByActs (fun s => CallersWf s.callers) where
  bookkeeping _ _ _ _ hs := hs
  issued _ c _ hs := hs.write c _
  led u c a _ hs := by
    cases a with
    | stay => exact hs
    | refuse | body => exact CallersWf.write hs c _
    | capture text => exact CallersWf.write hs c { u.caller c with phase := .ledWaiting text }
    | acquire buf => exact CallersWf.write hs c { u.caller c with phase := .ledHolding buf }
  buz u c a _ hs := by
    cases a with
    | stay | fail => exact hs
    | refuse | body => exact CallersWf.write hs c _
    | take f => exact CallersWf.write hs c { u.caller c with phase := .buzHolding f }
  close _ _ _ hs := hs

/-- Settles O54: the table changes only by writes of one caller and by the open's `idleAll`. -/
theorem stepsKeepTheCallerTableCanonical : Obligations.StepsKeepTheCallerTableCanonical := by
  intro s t hs ht
  exact callersWf_keptByActs.step (fun _ _ _ hu => CallersWf.idleAll hu) hs ht

/-! ### The transients of a body -/

theorem scratchAtRest_keptByActs : KeptByActs ScratchAtRest where
  bookkeeping _ _ _ _ hs := hs
  issued _ _ _ hs := hs
  led u c a _ hs := by
    cases a with
    | stay | refuse | capture | acquire => exact hs
    | body => rfl
  buz u c a _ hs := by
    cases a <;> exact hs
  close _ _ _ _ := rfl

/-- Settles O55: only an apply body touches the transients, and its exit sets them to rest. -/
theorem stepsLeaveNothingOfABodyStored : Obligations.StepsLeaveNothingOfABodyStored := by
  intro s t hs ht
  exact scratchAtRest_keptByActs.step (fun _ _ _ _ => rfl) hs ht

/-! ### The timer log and the tone -/

/-- The calls and the tone of a body in range keep the log and the tone in range. -/
theorem TimerUpdate.InRange.keeps {r : TimerUpdate} {s : State} (hr : r.InRange s)
    (hs : TimerCallsInRange s ∧ ToneInRange s) : TimerCallsInRange (r.on s) ∧ ToneInRange (r.on s) := by
  obtain ⟨hcalls, htone⟩ := hr
  refine ⟨fun d p hmem => ?_, fun hon => ?_⟩
  · rcases List.mem_append.mp hmem with hold | hnew
    · exact hs.1 d p hold
    · exact hcalls d p hnew
  · rcases htone hon with heq | hin
    · have htone : (r.on s).buz.tone = s.buz.tone := heq
      rw [htone] at hon ⊢
      exact hs.2 hon
    · exact hin

theorem timerInRange_keptByActs : KeptByActs (fun s => TimerCallsInRange s ∧ ToneInRange s) where
  bookkeeping _ _ _ _ hs := hs
  issued _ _ _ hs := hs
  led u c a _ hs := by
    cases a <;> exact hs
  buz u c a hen hs := by
    cases a with
    | stay | refuse | take => exact hs
    | fail r => exact hen.2.keeps hs
    | body r e => exact hen.2.keeps hs
  close _ _ _ hs := ⟨hs.1, nofun⟩

/-- Settles O57: a body's calls and tone are in range, and an open or a close leaves no enabled tone. -/
theorem stepsKeepTimerCallsInRange : Obligations.StepsKeepTimerCallsInRange := by
  intro s t hcalls htone ht
  exact timerInRange_keptByActs.step (fun _ _ _ _ => ⟨nofun, nofun⟩) ⟨hcalls, htone⟩ ht

/-! ### The logs -/

/-- Both logs of `t` are those of `s` with records appended. -/
def LogsExtend (s t : State) : Prop :=
  (∃ a, t.led.xmitLog = s.led.xmitLog ++ a) ∧ ∃ b, t.buz.timerLog = s.buz.timerLog ++ b

theorem logsExtend_keptByActs (s : State) : KeptByActs (LogsExtend s) where
  bookkeeping _ _ _ _ hs := hs
  issued _ _ _ hs := hs
  led u c a _ hs := by
    cases a with
    | stay | refuse | capture | acquire => exact hs
    | body r e =>
      obtain ⟨⟨a, ha⟩, hb⟩ := hs
      exact ⟨⟨a ++ r.sent, by simp [LedAct.on, finishApply, BodyUpdate.on, ha]⟩, hb⟩
  buz u c a _ hs := by
    obtain ⟨ha, b, hb⟩ := hs
    cases a with
    | stay | refuse | take => exact ⟨ha, b, hb⟩
    | fail r => exact ⟨ha, b ++ r.calls, by simp [BuzAct.on, TimerUpdate.on, hb]⟩
    | body r e => exact ⟨ha, b ++ r.calls, by simp [BuzAct.on, finishSetFreq, TimerUpdate.on, hb]⟩
  close _ _ _ hs := hs

/-- Settles O51: "the logs extend those of `s`" is kept by every part of a step but an open. -/
theorem logsOnlyGrow : Obligations.LogsOnlyGrow := by
  intro s t ht hopen
  exact (logsExtend_keptByActs s).step (fun h => absurd h hopen) ⟨⟨[], by simp⟩, [], by simp⟩ ht

/-! ### Phases after an update of one caller -/

/-- A caller's phase does not depend on the operations it has still to issue. -/
theorem phase_issued (s : State) (c : Nat) (ops : List HostOp) (d : Nat) :
    (s.setCaller c { s.caller c with ops := ops }).phase d = s.phase d := by
  by_cases h : d = c
  · subst h
    simp [State.phase]
  · exact phase_setCaller_other s c d _ h

/-- After an open every caller is idle (R230). -/
theorem phase_openUnits {s : State} (h : CallersWf s.callers) (v : Env) (d : Nat) :
    ({ s with env := v } : State).openUnits.phase d = .idle :=
  congrArg Caller.phase (readCaller_idleAll h d)

theorem LedAct.phase_other (c : Nat) (s : State) (a : LedAct) {d : Nat} (h : d ≠ c) :
    (a.on c s).phase d = s.phase d :=
  congrArg Caller.phase ((a.frame c s).others d h)

theorem BuzAct.phase_other (c : Nat) (s : State) (a : BuzAct) {d : Nat} (h : d ≠ c) :
    (a.on c s).phase d = s.phase d :=
  congrArg Caller.phase ((a.frame c s).others d h)

@[simp] theorem phase_finishApply (c : Nat) (e : OpOutcome) (s : State) : (finishApply c e s).phase c = .idle :=
  phase_endOp_same _ c e

@[simp] theorem phase_finishSetFreq (c : Nat) (e : OpOutcome) (s : State) : (finishSetFreq c e s).phase c = .idle :=
  phase_endOp_same _ c e

/-! ### Captured texts -/

/-- The text a phase has captured, if any, has at most `n` bytes. -/
def Phase.TextWithin (n : Nat) (p : Phase) : Prop :=
  ∀ buf, p = .ledWaiting buf ∨ p = .ledHolding buf → buf.length ≤ n

theorem Phase.textWithin_idle (n : Nat) : Phase.idle.TextWithin n := by
  simp [Phase.TextWithin]

theorem Phase.textWithin_buzHolding (n : Nat) (f : Freq) : (Phase.buzHolding f).TextWithin n := by
  simp [Phase.TextWithin]

theorem textsBounded_iff (s : State) : TextsBounded s ↔ ∀ c, (s.phase c).TextWithin s.params.cmdMaxLen := Iff.rfl

/-- An LED act captures a text within the cap only, and the text it carries on is one that was captured (R60, R101). -/
theorem LedAct.textWithin {c n : Nat} {s : State} {a : LedAct} (hen : a.Enabled c s) (hn : s.params.cmdMaxLen = n)
    (hs : (s.phase c).TextWithin n) : ((a.on c s).phase c).TextWithin n := by
  cases a with
  | stay => exact hs
  | refuse e => simpa [LedAct.on] using Phase.textWithin_idle n
  | body r e => simpa [LedAct.on] using Phase.textWithin_idle n
  | capture text =>
    obtain ⟨-, -, hlen⟩ := hen
    simpa [LedAct.on, Phase.TextWithin, ← hn] using hlen
  | acquire buf =>
    obtain ⟨hp, -⟩ := hen
    simpa [LedAct.on, Phase.TextWithin] using hs buf (.inl hp)

theorem BuzAct.textWithin {c n : Nat} {s : State} (a : BuzAct) (hs : (s.phase c).TextWithin n) :
    ((a.on c s).phase c).TextWithin n := by
  cases a with
  | stay | fail => exact hs
  | refuse e => simpa [BuzAct.on] using Phase.textWithin_idle n
  | body r e => simpa [BuzAct.on] using Phase.textWithin_idle n
  | take f => simpa [BuzAct.on] using Phase.textWithin_buzHolding n f

theorem textsBounded_keptByActs : KeptByActs (fun s => CallersWf s.callers ∧ TextsBounded s) where
  bookkeeping _ _ _ _ hs := hs
  issued u c ops hs := by
    refine ⟨callersWf_keptByActs.issued u c ops hs.1, fun d => ?_⟩
    rw [phase_issued]
    exact hs.2 d
  led u c a hen hs := by
    refine ⟨callersWf_keptByActs.led u c a hen hs.1, (textsBounded_iff _).mpr fun d => ?_⟩
    rw [(a.frame c u).params]
    by_cases hd : d = c
    · subst hd
      exact LedAct.textWithin hen rfl (hs.2 d)
    · rw [a.phase_other c u hd]
      exact hs.2 d
  buz u c a hen hs := by
    refine ⟨callersWf_keptByActs.buz u c a hen hs.1, (textsBounded_iff _).mpr fun d => ?_⟩
    rw [(a.frame c u).params]
    by_cases hd : d = c
    · subst hd
      exact a.textWithin (hs.2 d)
    · rw [a.phase_other c u hd]
      exact hs.2 d
  close _ _ _ hs := hs

/-- Settles O58: a text is captured within the cap only, and an open leaves every caller idle. -/
theorem stepsKeepCapturedTextsBounded : Obligations.StepsKeepCapturedTextsBounded := by
  intro s t hwf hs ht
  refine (textsBounded_keptByActs.step (fun _ u v hu => ?_) ⟨hwf, hs⟩ ht).2
  refine ⟨CallersWf.idleAll hu.1, (textsBounded_iff _).mpr fun d => ?_⟩
  rw [phase_openUnits hu.1]
  exact Phase.textWithin_idle _

/-! ### Locks and phases -/

/-- Caller `d`'s phase fits the two units: it is a holding phase exactly if `d` holds that unit's lock (R33), and no
operation is in progress at a unit that is not open (R34). -/
structure Phase.Fits (d : Nat) (l : LedUnit) (b : BuzUnit) (p : Phase) : Prop where
  led : l.lock = .held d ↔ ∃ buf, p = .ledHolding buf
  buz : b.lock = .held d ↔ ∃ f, p = .buzHolding f
  ledClosed : l.isOpen = false → (∀ buf, p ≠ .ledWaiting buf) ∧ ∀ buf, p ≠ .ledHolding buf
  buzClosed : b.isOpen = false → ∀ f, p ≠ .buzHolding f

theorem locksAgree_and_closedUnitsIdle_iff (s : State) :
    LocksAgree s ∧ ClosedUnitsIdle s ↔ ∀ d, (s.phase d).Fits d s.led s.buz :=
  ⟨fun ⟨hl, hc⟩ d => ⟨(hl d).1, (hl d).2, (hc d).1, (hc d).2⟩,
    fun h => ⟨fun d => ⟨(h d).led, (h d).buz⟩, fun d => ⟨(h d).ledClosed, (h d).buzClosed⟩⟩⟩

/-- An idle caller fits any units whose locks it does not hold. -/
theorem Phase.fits_idle {d : Nat} {l : LedUnit} {b : BuzUnit} (hl : l.lock ≠ .held d) (hb : b.lock ≠ .held d) :
    Phase.idle.Fits d l b where
  led := by simp [hl]
  buz := by simp [hb]
  ledClosed := by simp
  buzClosed := by simp

/-- The fit depends on the locks, for this caller, and on the open flags. -/
theorem Phase.Fits.of_units {d : Nat} {l l' : LedUnit} {b b' : BuzUnit} {p : Phase} (h : p.Fits d l b)
    (hl : l'.lock = .held d ↔ l.lock = .held d) (hb : b'.lock = .held d ↔ b.lock = .held d)
    (hlo : l'.isOpen = l.isOpen) (hbo : b'.isOpen = b.isOpen) : p.Fits d l' b' where
  led := hl.trans h.led
  buz := hb.trans h.buz
  ledClosed ho := h.ledClosed (hlo ▸ ho)
  buzClosed ho := h.buzClosed (hbo ▸ ho)

/-- A caller that fits and is not in the LED holding phase does not hold the LED lock. -/
theorem Phase.Fits.led_ne {d : Nat} {l : LedUnit} {b : BuzUnit} {p : Phase} (h : p.Fits d l b)
    (hp : ∀ buf, p ≠ .ledHolding buf) : l.lock ≠ .held d := fun hl => by
  obtain ⟨buf, hbuf⟩ := h.led.mp hl
  exact hp buf hbuf

theorem Phase.Fits.buz_ne {d : Nat} {l : LedUnit} {b : BuzUnit} {p : Phase} (h : p.Fits d l b)
    (hp : ∀ f, p ≠ .buzHolding f) : b.lock ≠ .held d := fun hb => by
  obtain ⟨f, hf⟩ := h.buz.mp hb
  exact hp f hf

/-- Only the caller that holds a lock is in its holding phase, so an LED act changes the LED lock for no other caller. -/
theorem LedAct.lock_other {c d : Nat} {s : State} {a : LedAct} (hen : a.Enabled c s)
    (hs : (s.phase c).Fits c s.led s.buz) (hd : d ≠ c) :
    (a.on c s).led.lock = .held d ↔ s.led.lock = .held d := by
  cases a with
  | stay | refuse | capture => exact Iff.rfl
  | acquire buf => simp [LedAct.on, hen.2, hd.symm]
  | body r e =>
    have hlock : s.led.lock = .held c := hs.led.mpr hen
    simp [LedAct.on, finishApply, hlock, hd.symm]

theorem BuzAct.lock_other {c d : Nat} {s : State} {a : BuzAct} (hen : a.Enabled c s)
    (hs : (s.phase c).Fits c s.led s.buz) (hd : d ≠ c) :
    (a.on c s).buz.lock = .held d ↔ s.buz.lock = .held d := by
  cases a with
  | stay | refuse | fail => exact Iff.rfl
  | take f => simp [BuzAct.on, hen.2.2, hd.symm]
  | body r e =>
    have hlock : s.buz.lock = .held c := hs.buz.mpr hen.1
    simp [BuzAct.on, finishSetFreq, hlock, hd.symm]

/-- After an LED act its caller's phase fits the units. -/
theorem LedAct.fits_own {c : Nat} {s : State} {a : LedAct} (hen : a.Enabled c s)
    (hs : (s.phase c).Fits c s.led s.buz) : ((a.on c s).phase c).Fits c (a.on c s).led (a.on c s).buz := by
  cases a with
  | stay => exact hs
  | refuse e =>
    have hne : (∀ buf, s.phase c ≠ .ledHolding buf) ∧ ∀ f, s.phase c ≠ .buzHolding f := by
      rcases hen with hp | ⟨b, hp⟩ <;> simp [hp]
    rw [show (LedAct.on c s (.refuse e)).phase c = .idle from phase_endOp_same s c e]
    exact Phase.fits_idle (hs.led_ne hne.1) (hs.buz_ne hne.2)
  | capture text =>
    obtain ⟨hp, ho, -⟩ := hen
    have hl := hs.led_ne (by simp [hp])
    have hb := hs.buz_ne (by simp [hp])
    constructor <;> simp [LedAct.on, hl, hb, ho]
  | acquire buf =>
    obtain ⟨hp, -⟩ := hen
    have hb := hs.buz_ne (by simp [hp])
    have ho : s.led.isOpen = true := by
      by_contra hclosed
      exact (hs.ledClosed (by simpa using hclosed)).1 buf hp
    constructor <;> simp [LedAct.on, hb, ho]
  | body r e =>
    obtain ⟨buf, hp⟩ := hen
    have hb := hs.buz_ne (by simp [hp])
    rw [show (LedAct.on c s (.body r e)).phase c = .idle from phase_finishApply c e _]
    exact Phase.fits_idle (by simp [LedAct.on, finishApply]) hb

/-- After a buzzer act its caller's phase fits the units. -/
theorem BuzAct.fits_own {c : Nat} {s : State} {a : BuzAct} (hen : a.Enabled c s)
    (hs : (s.phase c).Fits c s.led s.buz) : ((a.on c s).phase c).Fits c (a.on c s).led (a.on c s).buz := by
  cases a with
  | stay => exact hs
  | refuse e =>
    have hp : s.phase c = .idle := hen
    rw [show (BuzAct.on c s (.refuse e)).phase c = .idle from phase_endOp_same s c e]
    exact Phase.fits_idle (hs.led_ne (by simp [hp])) (hs.buz_ne (by simp [hp]))
  | take f =>
    obtain ⟨hp, ho, -⟩ := hen
    have hl := hs.led_ne (by simp [hp])
    constructor <;> simp [BuzAct.on, hl, ho]
  | fail r => exact hs.of_units Iff.rfl Iff.rfl rfl rfl
  | body r e =>
    obtain ⟨⟨f, hp⟩, -⟩ := hen
    have hl := hs.led_ne (by simp [hp])
    rw [show (BuzAct.on c s (.body r e)).phase c = .idle from phase_finishSetFreq c e _]
    exact Phase.fits_idle hl (by simp [BuzAct.on, finishSetFreq])

/-- With both units closed a phase that fits is idle. -/
theorem Phase.Fits.idle_of_closed {d : Nat} {l : LedUnit} {b : BuzUnit} {p : Phase} (h : p.Fits d l b)
    (hl : l.isOpen = false) (hb : b.isOpen = false) : p = .idle := by
  cases p with
  | idle => rfl
  | ledWaiting buf => exact absurd rfl ((h.ledClosed hl).1 buf)
  | ledHolding buf => exact absurd rfl ((h.ledClosed hl).2 buf)
  | buzHolding f => exact absurd rfl (h.buzClosed hb f)

theorem fits_keptByActs :
    KeptByActs (fun s => CallersWf s.callers ∧ ∀ d, (s.phase d).Fits d s.led s.buz) where
  bookkeeping _ _ _ _ hs := hs
  issued u c ops hs := by
    refine ⟨callersWf_keptByActs.issued u c ops hs.1, fun d => ?_⟩
    rw [phase_issued]
    exact hs.2 d
  led u c a hen hs := by
    refine ⟨callersWf_keptByActs.led u c a hen hs.1, fun d => ?_⟩
    by_cases hd : d = c
    · subst hd
      exact LedAct.fits_own hen (hs.2 d)
    · have f := a.frame c u
      rw [a.phase_other c u hd, f.buz]
      exact (hs.2 d).of_units (LedAct.lock_other hen (hs.2 c) hd) Iff.rfl f.isOpen rfl
  buz u c a hen hs := by
    refine ⟨callersWf_keptByActs.buz u c a hen hs.1, fun d => ?_⟩
    by_cases hd : d = c
    · subst hd
      exact BuzAct.fits_own hen (hs.2 d)
    · have f := a.frame c u
      rw [a.phase_other c u hd, f.led]
      exact (hs.2 d).of_units Iff.rfl (BuzAct.lock_other hen (hs.2 c) hd) rfl f.isOpen
  close u v hquiet hs := by
    refine ⟨hs.1, fun d => ?_⟩
    have hidle : u.phase d = .idle := by
      rcases hquiet with hidle | ⟨hl, hb⟩
      · exact hidle d
      · exact (hs.2 d).idle_of_closed hl hb
    rw [show ({ u with env := v } : State).closeUnits.phase d = .idle from hidle]
    exact Phase.fits_idle nofun nofun

/-- Settles O53: an act moves its unit's lock and its caller's phase together, and only its caller's. -/
theorem stepsKeepLocksAndPhasesInAgreement : Obligations.StepsKeepLocksAndPhasesInAgreement := by
  intro s t hwf hlocks hclosed ht
  have hs := (locksAgree_and_closedUnitsIdle_iff s).mp ⟨hlocks, hclosed⟩
  refine (locksAgree_and_closedUnitsIdle_iff t).mpr (fits_keptByActs.step (fun _ u v hu => ?_) ⟨hwf, hs⟩ ht).2
  refine ⟨CallersWf.idleAll hu.1, fun d => ?_⟩
  rw [phase_openUnits hu.1]
  exact Phase.fits_idle nofun nofun

/-! ### Reset, and two facts of single steps -/

/-- Settles O59: after reset every caller is idle, the locks are free, the logs are empty and the tone is off. -/
theorem resetMeetsEveryInvariant : Obligations.ResetMeetsEveryInvariant := by
  obtain ⟨hlocks, hclosed⟩ := (locksAgree_and_closedUnitsIdle_iff State.reset).mpr fun d => by
    rw [reset_phase]
    exact Phase.fits_idle nofun nofun
  have htexts : TextsBounded State.reset := (textsBounded_iff _).mpr fun c => by
    rw [reset_phase]
    exact Phase.textWithin_idle _
  exact ⟨CallersWf.reset, hlocks, hclosed, htexts, rfl, nofun, nofun, nofun⟩

/-- Settles O17: the open check is LED_ACCEPT's first (R146, R204). -/
theorem closedUnitAnswersDeviceUnavailable : Obligations.ClosedUnitAnswersDeviceUnavailable := by
  intro s text pins colors hp ho
  have hexec (txt : List Byte) : applyStep s.cur txt s = s.endOp s.cur .deviceUnavailable := by
    simp [applyStep, hp, ledAccept, ho]
  refine ⟨congrArg Host.Outcome.next (hexec text), fun hgood => congrArg Host.Outcome.next ?_⟩
  rw [lightOnStep, if_neg (by simp [hgood]), hexec]

/-- Settles O40: the event taken is the caller's turn, and the turn goes by the caller's phase. -/
theorem stepRunsTheDecodedInstruction : Obligations.StepRunsTheDecodedInstruction := by
  intro s c rest hmark hsched
  have hstep : step s = turn c { s with sched := rest } := by simp [step, hmark, advance, hsched, takeEvent]
  rw [hstep]
  refine ⟨fun op ops i hp hops hd => ?_, fun buf hp => ?_, fun f hp => ?_⟩
  · simp [turn, hp, issue, hops, hd]
  · rcases hp with hp | hp <;> simp [turn, hp]
  · simp [turn, hp]

end Sys2Proof.Machine
end

section
/-!
SUPPORT. The formats' words as numbers: what a concatenation of bytes or of hex digits stands for, and what a field of it
gives back.
-/

namespace Sys2Proof

/-- A concatenation as a number: the bits before count `2 ^ n` times. -/
theorem toNat_append_eq_add {m n : Nat} (a : BitVec m) (b : BitVec n) :
    (a ++ b).toNat = 2 ^ n * a.toNat + b.toNat := by
  rw [BitVec.toNat_append, Nat.shiftLeft_eq, Nat.mul_comm, Nat.two_pow_add_eq_or_of_lt b.isLt]

/-! ### The frequency word -/

/-- Each byte of a word put together from four bytes, the most significant first (R53). -/
theorem bytes_of_append (w3 w2 w1 w0 : Byte) :
    let f : Freq := (w3 ++ w2 ++ w1 ++ w0 : BitVec (8 + 8 + 8 + 8))
    f.extractLsb' 24 8 = w3 ∧ f.extractLsb' 16 8 = w2 ∧ f.extractLsb' 8 8 = w1 ∧ f.extractLsb' 0 8 = w0 := by
  intro f
  have hf : f.toNat = 2 ^ 8 * (2 ^ 8 * (2 ^ 8 * w3.toNat + w2.toNat) + w1.toNat) + w0.toNat := by
    simp only [f, toNat_append_eq_add]
  have h3 := w3.isLt
  have h2 := w2.isLt
  have h1 := w1.isLt
  have h0 := w0.isLt
  refine ⟨?_, ?_, ?_, ?_⟩ <;> apply BitVec.eq_of_toNat_eq <;>
    rw [BitVec.extractLsb'_toNat, Nat.shiftRight_eq_div_pow] <;> omega

/-- Four bytes have a value in either byte order, and that value's bytes in the same order are the four again (R53, R77). -/
theorem assembleFreq_freqBytes (o : ByteOrder) (b0 b1 b2 b3 : Byte) :
    ∃ f, assembleFreq o [b0, b1, b2, b3] = some f ∧ freqBytes o f = [b0, b1, b2, b3] := by
  cases o with
  | little =>
    obtain ⟨h3, h2, h1, h0⟩ := bytes_of_append b3 b2 b1 b0
    exact ⟨_, rfl, by rw [freqBytes, h0, h1, h2, h3]⟩
  | big =>
    obtain ⟨h0, h1, h2, h3⟩ := bytes_of_append b0 b1 b2 b3
    exact ⟨_, rfl, by rw [freqBytes, h0, h1, h2, h3]⟩

/-- Settles O2: the word is the one `assembleFreq` gives, and its bytes are the bytes written. -/
theorem fourByteBuzzerWritesKeepEveryBit : Obligations.FourByteBuzzerWritesKeepEveryBit := by
  intro p b0 b1 b2 b3
  obtain ⟨f, hf, hbytes⟩ := assembleFreq_freqBytes p.freqByteOrder b0 b1 b2 b3
  exact ⟨f, by simp [decode, hf], hbytes⟩

/-! ### The colour -/

/-- A colour as a number: its digits in base 16, the first the most significant (R50). -/
theorem toNat_assembleRgb (h0 h1 h2 h3 h4 h5 : BitVec 4) :
    (assembleRgb h0 h1 h2 h3 h4 h5).toNat =
      16 * (16 * (16 * (16 * (16 * h0.toNat + h1.toNat) + h2.toNat) + h3.toNat) + h4.toNat) + h5.toNat := by
  simp only [assembleRgb, toNat_append_eq_add, Nat.reducePow]

/-- Each channel of an assembled colour is its pair of digits (R20, R50). -/
theorem channels_assembleRgb (h0 h1 h2 h3 h4 h5 : BitVec 4) :
    (red (assembleRgb h0 h1 h2 h3 h4 h5)).toNat = 16 * h0.toNat + h1.toNat ∧
      (green (assembleRgb h0 h1 h2 h3 h4 h5)).toNat = 16 * h2.toNat + h3.toNat ∧
      (blue (assembleRgb h0 h1 h2 h3 h4 h5)).toNat = 16 * h4.toNat + h5.toNat := by
  have hv := toNat_assembleRgb h0 h1 h2 h3 h4 h5
  have b0 := h0.isLt
  have b1 := h1.isLt
  have b2 := h2.isLt
  have b3 := h3.isLt
  have b4 := h4.isLt
  have b5 := h5.isLt
  refine ⟨?_, ?_, ?_⟩ <;>
    simp only [red, green, blue, BitVec.extractLsb'_toNat, Nat.shiftRight_eq_div_pow, hv] <;> omega

/-- Settles O10: the colour field of six hex digits is `assembleRgb` of their values. -/
theorem colourChannelsComeFromTheirDigitPairs : Obligations.ColourChannelsComeFromTheirDigitPairs := by
  intro b0 b1 b2 b3 b4 b5 h0 h1 h2 h3 h4 h5 e0 e1 e2 e3 e4 e5
  exact ⟨assembleRgb h0 h1 h2 h3 h4 h5, by simp [colourField?, e0, e1, e2, e3, e4, e5], rfl,
    channels_assembleRgb h0 h1 h2 h3 h4 h5⟩

end Sys2Proof
end

section
/-!
SUPPORT. What an apply body and a buzzer body leave, and what a step does to the transmit log.
-/

namespace Sys2Proof.Machine

/-! ### LED_BODY from the text alone -/

/-- The decode step of LED_BODY (R108, R141): the registers become `appliedLights`, and the transients hold the status that
`parseText` gives. -/
theorem decodeLoop_eq_appliedLights (buf : List Byte) (s : State) :
    ∃ x : Scratch,
      decodeLoop buf (buf.length + 1) (s.setScratch {}) =
        { s with led := { s.led with lights := appliedLights s.params s.led.lights buf, scratch := x } } ∧
      x.decode = statusOf (parseText s.params buf).2 := by
  obtain ⟨x, hx, hstatus⟩ := decodeLoop_spec buf (buf.length + 1) (s.setScratch {}) fun _ => rfl
  refine ⟨x, hx.trans ?_, hstatus⟩
  have hparse : parseLoop s.params buf (buf.length + 1) 0 = parseText s.params buf := rfl
  cases hr : (parseText s.params buf).2 <;> simp [State.setScratch, hparse, hr, appliedLights]

/-- A text that decodes has all its entries written, in both settings of `APPLY_ATOMIC` (R110, R111). -/
theorem appliedLights_of_decoded {p : Params} {text : List Byte} (h : (parseText p text).2 = none) (lights : LightArray) :
    appliedLights p lights text = writeLights lights (parseText p text).1 := by
  simp [appliedLights, h]

/-- A body whose text does not decode sends nothing (R144). -/
theorem ledBody_of_decode_error (c : Nat) (buf : List Byte) (s : State) {e : DecodeError}
    (h : (parseText s.params buf).2 = some e) :
    ledBody c buf s =
      ({ s with led := { s.led with
          lights := appliedLights s.params s.led.lights buf, lock := .free, scratch := {} } } : State).endOp
        c e.outcome := by
  obtain ⟨x, hx, hstatus⟩ := decodeLoop_eq_appliedLights buf s
  have hfailed : x.decode = .failed e := by rw [hstatus, h]; rfl
  rcases ledBody_cases c buf s with ⟨e', he', hbody⟩ | ⟨hne, -⟩
  · rw [hx] at he' hbody
    obtain rfl : e = e' := DecodeStatus.failed.inj (hfailed.symm.trans he')
    exact hbody
  · rw [hx] at hne
    exact absurd hfailed (hne e)

/-- A body whose text decodes sends one frame, of the registers as it has written them (R141, R148). -/
theorem ledBody_of_decoded (c : Nat) (buf : List Byte) (s : State) (h : (parseText s.params buf).2 = none) :
    ledBody c buf s =
      ({ s with
          led := { s.led with
            lights := appliedLights s.params s.led.lights buf, lock := .free, scratch := {},
            xmitLog := s.led.xmitLog ++
              [{ frame := encodeFrame (appliedLights s.params s.led.lights buf), answer := s.transportAnswer }] }
          env := s.afterTransport } : State).endOp
        c (if s.transportAnswer = .fail then .transportError else .ok) := by
  obtain ⟨x, hx, hstatus⟩ := decodeLoop_eq_appliedLights buf s
  have hsucceeded : x.decode = .succeeded := by rw [hstatus, h]; rfl
  rcases ledBody_cases c buf s with ⟨e, he, -⟩ | ⟨-, hbody⟩
  · rw [hx] at he
    exact absurd (hsucceeded.symm.trans he) nofun
  · rw [hbody, hx, sendFrame_eq, transmitOutcome_some]
    rfl

/-! ### A body frees its lock -/

@[simp] theorem finishApply_led_lock (c : Nat) (e : OpOutcome) (s : State) : (finishApply c e s).led.lock = .free := rfl

@[simp] theorem finishSetFreq_buz_lock (c : Nat) (e : OpOutcome) (s : State) :
    (finishSetFreq c e s).buz.lock = .free := rfl

/-- Every path of LED_BODY frees the lock and leaves its caller idle (R61, R141). -/
theorem ledBody_releases (c : Nat) (buf : List Byte) (s : State) :
    (ledBody c buf s).led.lock = .free ∧ (ledBody c buf s).phase c = .idle := by
  rcases ledBody_cases c buf s with ⟨e, -, h⟩ | ⟨-, h⟩
  · exact ⟨by rw [h, finishApply_led_lock], by rw [h, phase_finishApply]⟩
  · exact ⟨by rw [h, sendFrame, finishApply_led_lock], by rw [h, sendFrame, phase_finishApply]⟩

/-- An infallible timer sink answers `ok` (R171). -/
theorem timerAnswer_of_infallible {s : State} (h : s.params.timerSinkFallible = false) : s.timerAnswer = .ok := by
  simp [State.timerAnswer, h]

/-- Every path of BUZ_BODY that meets no failing timer sink frees the lock and leaves its caller idle (R61, R167). -/
theorem buzBody_releases (c : Nat) (f : Freq) {s : State} (h : s.params.timerSinkFallible = false) :
    (buzBody c f s).buz.lock = .free ∧ (buzBody c f s).phase c = .idle := by
  obtain ⟨e, u, he⟩ : ∃ e u, buzBody c f s = finishSetFreq c e u := by
    have hok := timerAnswer_of_infallible h
    rcases buzBody_cases c f s with ⟨-, hfail, -⟩ | ⟨-, -, he⟩ | ⟨-, -, he⟩ | ⟨-, -, hfail, -⟩ | ⟨-, -, -, he⟩
    · exact absurd (hok.symm.trans hfail) nofun
    · exact ⟨_, _, he⟩
    · exact ⟨_, _, he⟩
    · exact absurd (hok.symm.trans hfail) nofun
    · have hok' : (s.timerCall (.configure (dutyNs f) (periodNs f))).timerAnswer = .ok := timerAnswer_of_infallible h
      rcases buzEnable_cases c f (s.timerCall (.configure (dutyNs f) (periodNs f))) with ⟨hfail, -⟩ | ⟨-, he'⟩
      · exact absurd (hok'.symm.trans hfail) nofun
      · exact ⟨_, _, he.trans he'⟩
  exact ⟨by rw [he, finishSetFreq_buz_lock], by rw [he, phase_finishSetFreq]⟩

/-! ### The operation in progress -/

/-- The next step of a waiting caller's APPLY (R147). -/
theorem exec_apply_of_waiting {s : State} {text buf : List Byte} (h : s.phase s.cur = .ledWaiting buf) :
    exec (.apply text) s = .next (ledAcquire s.cur buf s) := by
  simp [exec, execApply, applyStep, h]

/-- The next step of an APPLY whose caller holds the lock is its body (R141). -/
theorem exec_apply_of_holding {s : State} {text buf : List Byte} (h : s.phase s.cur = .ledHolding buf) :
    exec (.apply text) s = .next (ledBody s.cur buf s) := by
  simp [exec, execApply, applyStep, h]

/-- Both forms of a buzzer write are setFrequency's next step (R160). -/
theorem exec_freqInstr (f : Freq) (s : State) : exec (freqInstr f) s = .next (setFreqStep s.cur f s) := by
  unfold freqInstr
  split
  · rename_i hf
    rw [hf]
    rfl
  · rfl

/-- The next step of a setFrequency whose caller holds the lock is its body (R167). -/
theorem exec_freqInstr_of_holding {s : State} {f : Freq} (h : s.phase s.cur = .buzHolding f) :
    exec (freqInstr f) s = .next (buzBody s.cur f s) := by
  rw [exec_freqInstr, setFreqStep, h]
  simp

/-- The turn of a caller that waits for a free LED lock takes it (R147). -/
theorem step_of_waiting {s : State} {c : Nat} {buf : List Byte} {rest : List Event}
    (hmark : s.marks.timerSinkFault = false) (hsched : s.sched = .turn c :: rest) (hp : s.phase c = .ledWaiting buf)
    (hfree : s.led.lock = .free) :
    step s = .next
      ((({ s with cur := c, sched := rest } : State).setLedLock (.held c)).setPhase c (.ledHolding buf)) := by
  rw [(stepRunsTheDecodedInstruction s c rest hmark hsched).2.1 buf (.inl hp), exec_apply_of_waiting hp]
  simp [ledAcquire, hfree]

/-- The turn of a caller that holds the LED lock is its body (R141). -/
theorem step_of_holding {s : State} {c : Nat} {buf : List Byte} {rest : List Event}
    (hmark : s.marks.timerSinkFault = false) (hsched : s.sched = .turn c :: rest)
    (hp : s.phase c = .ledHolding buf) :
    step s = .next (ledBody c buf { s with cur := c, sched := rest }) :=
  ((stepRunsTheDecodedInstruction s c rest hmark hsched).2.1 buf (.inr hp)).trans (exec_apply_of_holding hp)

/-- The turn of a caller that holds the buzzer lock is its body (R167). -/
theorem step_of_buzHolding {s : State} {c : Nat} {f : Freq} {rest : List Event}
    (hmark : s.marks.timerSinkFault = false) (hsched : s.sched = .turn c :: rest) (hp : s.phase c = .buzHolding f) :
    step s = .next (buzBody c f { s with cur := c, sched := rest }) :=
  ((stepRunsTheDecodedInstruction s c rest hmark hsched).2.2 f hp).trans (exec_freqInstr_of_holding hp)

/-- Settles O46: the holder's turn is its body, and every path of the body releases the lock. -/
theorem aHolderFreesItsLockInOneTurn : Obligations.AHolderFreesItsLockInOneTurn := by
  intro s c rest hmark hsched
  exact ⟨fun buf hp => ⟨_, step_of_holding hmark hsched hp, ledBody_releases c buf _⟩,
    fun f hp hinf => ⟨_, step_of_buzHolding hmark hsched hp, buzBody_releases c f hinf⟩⟩

/-! ### A refused write -/

/-- A turn that is the first event is taken on the machine without it (R215). -/
theorem step_turn {s : State} {c : Nat} {rest : List Event} (hmark : s.marks.timerSinkFault = false)
    (hsched : s.sched = .turn c :: rest) : step s = turn c { s with sched := rest } := by
  simp [step, hmark, advance, hsched, takeEvent]

/-- Settles O41: the decoder refuses the bytes, so the turn only takes the write and sets the mark (R55). -/
theorem wrongLengthBuzzerWriteIsRefused : Obligations.WrongLengthBuzzerWriteIsRefused := by
  intro s c rest bytes ops hmark hsched hp hops hlen
  have hdecode : decode s.params (.buzzerBytes bytes) = .error .wordSize := by
    simp [decode, assembleFreq_eq_none _ hlen]
  calc step s = issue c { s with cur := c, sched := rest } := by rw [step_turn hmark hsched]; simp [turn, hp]
    _ = .next (({ s with cur := c, sched := rest } : State).setCaller c
          { s.caller c with ops := ops }).refuseWordSize := by simp [issue, hops, hdecode]
    _ = _ := rfl

/-! ### Two uncontended APPLYs -/

/-- The machine `t` after caller `c`'s APPLY of a text that decodes to the writes `ws` has run from `s`: the frame sent is
that of the registers it leaves. -/
structure ApplyRan (c : Nat) (ws : List (LightIndex × Rgb)) (s t : State) : Prop where
  lights : t.led.lights = writeLights s.led.lights ws
  sent : ∃ x, t.led.xmitLog = s.led.xmitLog ++ [{ frame := encodeFrame t.led.lights, answer := x }]
  lock : t.led.lock = .free
  idle : t.phase c = .idle
  others : ∀ d, d ≠ c → t.phase d = s.phase d
  params : t.params = s.params
  marks : t.marks = s.marks
  sched : t.sched = s.sched

/-- The body of a text that decodes. -/
theorem applyRan_ledBody (c : Nat) (buf : List Byte) (s : State) (h : (parseText s.params buf).2 = none) :
    ApplyRan c (parseText s.params buf).1 s (ledBody c buf s) := by
  rw [ledBody_of_decoded c buf s h]
  exact {
    lights := appliedLights_of_decoded h s.led.lights
    sent := ⟨s.transportAnswer, rfl⟩
    lock := rfl
    idle := phase_endOp_same _ c _
    others := fun d hd => phase_endOp_other _ c d _ hd
    params := rfl
    marks := rfl
    sched := rfl }

/-- Taking the lock and then the body: the acquire changes nothing that `ApplyRan` speaks of. -/
theorem applyRan_acquire_ledBody (c : Nat) (buf : List Byte) (s : State) (h : (parseText s.params buf).2 = none) :
    ApplyRan c (parseText s.params buf).1 s
      (ledBody c buf ((s.setLedLock (.held c)).setPhase c (.ledHolding buf))) :=
  have body := applyRan_ledBody c buf ((s.setLedLock (.held c)).setPhase c (.ledHolding buf)) h
  { body with others := fun d hd => (body.others d hd).trans (phase_setPhase_other _ c d _ hd) }

/-- Two turns of a caller that waits for a free lock run its APPLY (R141, R147). -/
theorem two_turns_run_apply {s : State} {c : Nat} {buf : List Byte} {rest : List Event}
    (hmark : s.marks.timerSinkFault = false) (hfree : s.led.lock = .free)
    (hsched : s.sched = .turn c :: .turn c :: rest) (hp : s.phase c = .ledWaiting buf)
    (hdec : (parseText s.params buf).2 = none) :
    ∃ u t, step s = .next u ∧ step u = .next t ∧
      ApplyRan c (parseText s.params buf).1 { s with cur := c, sched := rest } t :=
  ⟨_, _, step_of_waiting hmark hsched hp hfree, step_of_holding hmark rfl (phase_setPhase_same _ c _),
    applyRan_acquire_ledBody c buf { s with cur := c, sched := rest } hdec⟩

/-- A run takes a step that answers, and goes on from there. -/
theorem core_run_succ {s t : State} (k : Nat) (h : step s = .next t) :
    Sys2Proof.core.run (k + 1) s = Sys2Proof.core.run k t := by
  have hcore : Sys2Proof.core.step s = .next t := h
  simp only [Host.Core.run, hcore]

/-- Settles O47: each caller's two turns are one whole APPLY, and the later one starts from what the first leaves. -/
theorem theLaterOfTwoAppliesDecidesTheFrame : Obligations.TheLaterOfTwoAppliesDecidesTheFrame := by
  intro s c d a b hne hmark hfree hsched hc hd ha hb
  obtain ⟨u₁, m, hu₁, hm, first⟩ := two_turns_run_apply hmark hfree hsched hc ha
  rw [← first.params] at hb
  obtain ⟨u₂, t, hu₂, ht, second⟩ := two_turns_run_apply (by rw [first.marks, hmark]) first.lock first.sched
    ((first.others d hne.symm).trans hd) hb
  obtain ⟨x, hx⟩ := first.sent
  obtain ⟨y, hy⟩ := second.sent
  refine ⟨t, x, y, ?_, ?_, ?_, second.lock, (second.others c hne).trans first.idle, second.idle⟩
  · rw [core_run_succ 3 hu₁, core_run_succ 2 hm, core_run_succ 1 hu₂, core_run_succ 0 ht]
    rfl
  · rw [second.lights, first.lights, first.params]
  · rw [hy, hx, first.lights]
    simp

/-! ### Every frame is whole -/

/-- From `s` to `t` the transmit log has gained nothing, or the frame of the registers as `t` has them. -/
def SentWhole (s t : State) : Prop :=
  t.led.xmitLog = s.led.xmitLog ∨
    ∃ x, t.led.xmitLog = s.led.xmitLog ++ [{ frame := encodeFrame t.led.lights, answer := x }]

theorem SentWhole.framesWhole {s t : State} (h : SentWhole s t) (hs : FramesWhole s) : FramesWhole t := by
  intro r hr
  rcases h with h | ⟨x, h⟩ <;> rw [h] at hr
  · exact hs r hr
  · rcases List.mem_append.mp hr with hold | hnew
    · exact hs r hold
    · obtain rfl := List.mem_singleton.mp hnew
      exact ⟨t.led.lights, rfl⟩

theorem applyStep_sentWhole (c : Nat) (text : List Byte) (s : State) : SentWhole s (applyStep c text s) := by
  rcases applyStep_cases c text s with ⟨-, h⟩ | ⟨buf, -, h⟩ | ⟨buf, -, h⟩ | ⟨f, -, h⟩ <;> rw [h]
  · rcases ledAccept_cases c text s with ⟨-, h⟩ | ⟨-, -, h⟩ | ⟨-, -, h⟩ <;> rw [h] <;> exact .inl rfl
  · rcases ledAcquire_cases c buf s with ⟨-, h⟩ | ⟨d, -, h⟩ <;> rw [h] <;> exact .inl rfl
  · cases hr : (parseText s.params buf).2 with
    | some e => exact .inl (by rw [ledBody_of_decode_error c buf s hr]; rfl)
    | none => exact .inr ⟨s.transportAnswer, by rw [ledBody_of_decoded c buf s hr]; rfl⟩
  · exact .inl rfl

theorem lightOnStep_sentWhole (c : Nat) (pins : List Nat) (colors : List (List Byte)) (s : State) :
    SentWhole s (lightOnStep c pins colors s) := by
  rcases lightOnStep_cases c pins colors s with ⟨-, -, h⟩ | ⟨-, h⟩ <;> rw [h]
  · exact .inl rfl
  · exact applyStep_sentWhole c _ s

/-- A buzzer instruction leaves the transmit log (R41). -/
theorem exec_buzzer_sentWhole {i : Instr} {s t : State} (hbuz : i.isBuzzer = true) (ht : exec i s = .next t) :
    SentWhole s t := by
  obtain ⟨u, hu, hled, -⟩ := buzzerInstructionsFrame i s hbuz
  obtain rfl : u = t := Host.Outcome.next.inj (hu.symm.trans ht)
  exact .inl (by rw [hled])

/-- An instruction that a caller starts sends at most one frame, and a whole one; a TRANSMIT alone would not (R80). -/
theorem exec_sentWhole {i : Instr} {s t : State} (hint : i.isInternal = false) (ht : exec i s = .next t) :
    SentWhole s t := by
  cases i with
  | apply text =>
    cases ht
    exact applyStep_sentWhole s.cur text s
  | lightOn pins colors =>
    cases ht
    exact lightOnStep_sentWhole s.cur pins colors s
  | lightOff =>
    cases ht
    exact lightOnStep_sentWhole s.cur _ _ s
  | setfreqOff => exact exec_buzzer_sentWhole rfl ht
  | setfreqTone f => exact exec_buzzer_sentWhole rfl ht
  | entry | entryWrite | encode | transmit => cases hint

theorem issue_sentWhole {c : Nat} {s t : State} (ht : issue c s = .next t) : SentWhole s t := by
  rcases issue_cases c s with ⟨-, h⟩ | ⟨op, rest, i, -, hd, h⟩ | ⟨op, rest, -, -, h⟩ <;> rw [h] at ht
  · cases ht
    exact .inl rfl
  · exact exec_sentWhole (s := s.setCaller c _) (Laws.DecodedIsWellFormed.statement_any i s.params op hd).2 ht
  · cases ht
    exact .inl rfl

theorem turn_sentWhole {c : Nat} {s t : State} (ht : turn c s = .next t) : SentWhole s t := by
  rcases turn_cases c s with ⟨-, h⟩ | ⟨buf, -, h⟩ | ⟨f, -, h⟩ <;> rw [h] at ht
  · exact issue_sentWhole (s := { s with cur := c }) ht
  · exact exec_sentWhole (s := { s with cur := c }) rfl ht
  · exact exec_sentWhole (s := { s with cur := c }) (Laws.DecodedIsWellFormed.statement_freqInstr f).2 ht

/-- Every event sends at most one frame, and a whole one; an open empties the log (R65, R233). -/
theorem takeEvent_sentWhole {e : Event} {s t : State} (ht : takeEvent e s = .next t) :
    SentWhole s t ∨ t.led.xmitLog = [] := by
  cases e with
  | turn c => exact .inl (turn_sentWhole ht)
  | interrupt c =>
    cases ht
    rcases ledInterrupt_cases c s with ⟨buf, -, h⟩ | ⟨-, h⟩ <;> rw [h] <;> exact .inl (.inl rfl)
  | openBlock =>
    rcases openBlock_cases s with ⟨-, h⟩ | ⟨-, -, -, h⟩ | ⟨-, -, -, h⟩ <;> cases h.symm.trans ht
    · exact .inr rfl
    · exact .inl (.inl rfl)
  | closeBlock =>
    cases ht
    rcases closeBlock_cases s with ⟨-, h⟩ | ⟨-, h⟩ <;> rw [h] <;> exact .inl (.inl rfl)

/-- Settles O56: the only records a step adds are of the frame that a body encodes from the registers. -/
theorem stepsKeepEveryFrameWhole : Obligations.StepsKeepEveryFrameWhole := by
  intro s t hs ht
  obtain ⟨-, ⟨-, rfl⟩ | ⟨e, rest, -, ht⟩⟩ := step_next ht
  · exact hs
  · rcases takeEvent_sentWhole ht with hsent | hempty
    · exact hsent.framesWhole hs
    · intro r hr
      rw [hempty] at hr
      cases hr

end Sys2Proof.Machine
end

section
/-!
SUPPORT. Reading back what the encoders write: the frequency word, a colour, one entry, and a whole canonical text.
-/

namespace Sys2Proof

/-! ### The frequency word -/

/-- A word put together again from its own four bytes, the most significant first (R53). -/
theorem append_of_bytes (f : Freq) :
    (f.extractLsb' 24 8 ++ f.extractLsb' 16 8 ++ f.extractLsb' 8 8 ++ f.extractLsb' 0 8 : BitVec (8 + 8 + 8 + 8)) =
      f := by
  apply BitVec.eq_of_toNat_eq
  have hf := f.isLt
  simp only [toNat_append_eq_add, BitVec.extractLsb'_toNat, Nat.shiftRight_eq_div_pow]
  omega

/-- The bytes of a word have that word as their value, in either byte order (R53, R77). -/
@[simp] theorem assembleFreq_of_freqBytes (o : ByteOrder) (f : Freq) : assembleFreq o (freqBytes o f) = some f := by
  cases o <;> exact congrArg some (append_of_bytes f)

theorem decode_freqBytes (p : Params) (f : Freq) :
    decode p (.buzzerBytes (freqBytes p.freqByteOrder f)) = .ok (freqInstr f) := by
  simp [decode]

theorem freqInstr_of_ne_zero {f : Freq} (hf : f ≠ 0) : freqInstr f = .setfreqTone f := if_neg hf

/-- Settles O1: the ports other than the buzzer's carry the operands themselves, and the buzzer's four bytes have the
frequency word as their value; a tone is read back as a tone because its word is not 0. -/
theorem decodeOfEncodeIsTheInstruction : Obligations.DecodeOfEncodeIsTheInstruction := by
  intro p i hwf hext
  cases i with
  | apply text => exact ⟨_, rfl, rfl⟩
  | lightOn pins colors => exact ⟨_, rfl, rfl⟩
  | lightOff => exact ⟨_, rfl, rfl⟩
  | setfreqOff => exact ⟨_, rfl, decode_freqBytes p 0⟩
  | setfreqTone f =>
    have hf : f ≠ 0 := of_decide_eq_true hwf
    exact ⟨_, rfl, (decode_freqBytes p f).trans (congrArg _ (freqInstr_of_ne_zero hf))⟩
  | entry | entryWrite | encode | transmit => cases hext

/-! ### One entry -/

/-- A colour put together again from its own six digits (R50). -/
theorem assembleRgb_of_digits (v : Rgb) :
    assembleRgb (v.extractLsb' 20 4) (v.extractLsb' 16 4) (v.extractLsb' 12 4) (v.extractLsb' 8 4)
      (v.extractLsb' 4 4) (v.extractLsb' 0 4) = v := by
  apply BitVec.eq_of_toNat_eq
  have hv := v.isLt
  simp only [toNat_assembleRgb, BitVec.extractLsb'_toNat, Nat.shiftRight_eq_div_pow]
  omega

@[simp] theorem colourField_colourText (v : Rgb) : colourField? (colourText v) = some v := by
  simp [colourField?, colourText, assembleRgb_of_digits]

/-- The digit that names a light (R74). -/
def indexDigit (i : LightIndex) : Byte := BitVec.ofNat 8 (0x30 + i.val)

theorem indexDigit_ne_colon (i : LightIndex) : indexDigit i ≠ colon := by
  revert i; decide

@[simp] theorem decimalValue_indexDigit (i : LightIndex) : decimalValue? [indexDigit i] = some i.val := by
  revert i; decide

/-- An entry of a canonical text is 8 bytes: one digit, a colon and the colour (R72). -/
theorem entryText_lightIndex (i : LightIndex) (colour : List Byte) :
    entryText i.val colour = indexDigit i :: colon :: colour := by
  have hi : i.val < 10 := by omega
  simp [entryText, decimalText, decimalDigits, hi, indexDigit]

@[simp] theorem length_entryText (i : LightIndex) (v : Rgb) : (entryText i.val (colourText v)).length = 8 := by
  simp [entryText_lightIndex]

/-- Behind any other bytes, the first colon from an entry's own digit on is the one after that digit (R102). -/
theorem findByte_colon_entry (pre rest : List Byte) (i : LightIndex) :
    findByte colon (pre ++ indexDigit i :: colon :: rest) pre.length = some (pre.length + 1) := by
  rw [findByte_eq_some_iff]
  refine ⟨by omega, by simp, fun j hle hlt => ?_⟩
  obtain rfl : j = pre.length := by omega
  simpa using indexDigit_ne_colon i

/-- An entry as the encoder writes it decodes to its light and colour, whatever stands before and after it
(R102 to R105). -/
theorem decodeEntry_entryText {p : Params} (hp : 1 ≤ p.indexMaxChars) (pre post : List Byte) (i : LightIndex)
    (v : Rgb) :
    decodeEntry p (pre ++ (entryText i.val (colourText v) ++ post)) pre.length =
      .ok { index := i, rgb := v, stop := pre.length + 8 } := by
  have hlimit : ¬ p.indexMaxChars < 1 := Nat.not_lt.mpr hp
  have hcolour : (colourText v ++ post).take 6 = colourText v := List.take_left' (length_colourText v)
  simp [entryText_lightIndex, decodeEntry, findByte_colon_entry, Nat.add_assoc, hlimit, hcolour]

/-! ### The separator -/

/-- A comma at the offset where an entry ends starts the next entry right after it, in both modes (R106). -/
theorem nextEntry_of_comma (p : Params) {text : List Byte} {e : Nat} (h : text[e]? = some comma) :
    nextEntry p text e = some (e + 1) := by
  have hfind : findByte comma text e = some e :=
    (findByte_eq_some_iff comma text e e).mpr ⟨Nat.le_refl e, h, fun j hle hlt => by omega⟩
  cases hmode : p.sepMode <;> simp [nextEntry, hmode, hfind, h]

/-- At the end of the text no entry follows, in both modes (R106). -/
theorem nextEntry_of_length_le (p : Params) {text : List Byte} {e : Nat} (h : text.length ≤ e) :
    nextEntry p text e = none := by
  cases hnext : nextEntry p text e with
  | none => rfl
  | some q =>
    obtain ⟨hlt, hle, -⟩ := nextEntry_some hnext
    omega

/-! ### A canonical text -/

theorem encodeText_singleton (e : LightIndex × Rgb) : encodeText [e] = entryText e.1.val (colourText e.2) := rfl

theorem encodeText_cons_cons (e e' : LightIndex × Rgb) (rest : List (LightIndex × Rgb)) :
    encodeText (e :: e' :: rest) = entryText e.1.val (colourText e.2) ++ comma :: encodeText (e' :: rest) := rfl

/-- A canonical text is 8 bytes for each entry and a comma between any two (R70). -/
theorem length_encodeText_cons (e : LightIndex × Rgb) (rest : List (LightIndex × Rgb)) :
    (encodeText (e :: rest)).length = 9 * rest.length + 8 := by
  induction rest generalizing e with
  | nil => simp [encodeText_singleton]
  | cons e' rest ih =>
    simp only [encodeText_cons_cons, List.length_append, List.length_cons, length_entryText, ih]
    omega

/-- The comma after an entry stands at the offset where the entry ends (R106). -/
theorem getElem?_comma_entryText (pre rest : List Byte) (i : LightIndex) (v : Rgb) :
    (pre ++ (entryText i.val (colourText v) ++ comma :: rest))[pre.length + 8]? = some comma := by
  rw [List.getElem?_append_right (Nat.le_add_right ..), List.getElem?_append_right (by simp)]
  simp

/-- The decode loop behind any other bytes: with a turn for each entry it reads the canonical text that starts at the cursor
and runs to the end (R108). -/
theorem parseLoop_encodeText {p : Params} (hp : 1 ≤ p.indexMaxChars) (e : LightIndex × Rgb)
    (rest : List (LightIndex × Rgb)) (pre : List Byte) (fuel : Nat) (hfuel : rest.length < fuel) :
    parseLoop p (pre ++ encodeText (e :: rest)) fuel pre.length = (e :: rest, none) := by
  induction rest generalizing e pre fuel with
  | nil =>
    obtain ⟨fuel, rfl⟩ := Nat.exists_eq_succ_of_ne_zero (Nat.ne_zero_of_lt hfuel)
    have hentry := decodeEntry_entryText hp pre [] e.1 e.2
    rw [List.append_nil] at hentry
    simp [encodeText_singleton, parseLoop, hentry, nextEntry_of_length_le]
  | cons e' rest ih =>
    obtain ⟨fuel, rfl⟩ := Nat.exists_eq_succ_of_ne_zero (Nat.ne_zero_of_lt hfuel)
    have hentry := decodeEntry_entryText hp pre (comma :: encodeText (e' :: rest)) e.1 e.2
    have hnext := nextEntry_of_comma p (getElem?_comma_entryText pre (encodeText (e' :: rest)) e.1 e.2)
    have htail := ih e' (pre ++ (entryText e.1.val (colourText e.2) ++ [comma])) fuel (Nat.lt_of_succ_lt_succ hfuel)
    simp only [List.append_assoc, List.singleton_append, List.length_append, length_entryText, List.length_singleton]
      at htail
    simp [encodeText_cons_cons, parseLoop, hentry, hnext, Nat.add_assoc, htail]

/-- Settles O3: the loop starts at cursor 0 with more turns than the text has bytes, so with one for each entry. -/
theorem canonicalTextDecodesToItsEntries : Obligations.CanonicalTextDecodesToItsEntries := by
  intro p entries hne hp
  cases entries with
  | nil => exact absurd rfl hne
  | cons e rest =>
    have hfuel : rest.length < (encodeText (e :: rest)).length + 1 := by
      rw [length_encodeText_cons]
      omega
    exact parseLoop_encodeText hp e rest [] _ hfuel

/-! ### Written-out words -/

/-- Settles O15: the words are the encodings of what they stand for, byte for byte, and the encodings read back. -/
theorem writtenOutWordsDecode : Obligations.WrittenOutWordsDecode := by
  refine ⟨?_, ?_, rfl, ?_⟩
  · exact decode_freqBytes { freqByteOrder := .big } 440
  · exact decode_freqBytes { freqByteOrder := .little } 440
  · exact canonicalTextDecodesToItsEntries { freqByteOrder := .big } [(0, 0xFF0000), (3, 0x00FF00)]
      (by decide) (by decide)

end Sys2Proof
end

section
/-!
SUPPORT. The command decoder as the rules state it: what decoding one entry answers, from the colon search to the colour
field, where the next entry starts, and the decode loop without its bound.
-/

namespace Sys2Proof

/-! ### The fields of an entry -/

theorem findByte_colon_iff {text : List Byte} {pos c : Nat} :
    findByte colon text pos = some c ↔ FirstColon text pos c :=
  findByte_eq_some_iff colon text pos c

/-- The index field is all the bytes before the first colon (R102). -/
theorem FirstColon.length_indexField {text : List Byte} {pos c : Nat} (h : FirstColon text pos c) :
    (indexField text pos c).length = c - pos := by
  have hlt : c < text.length := findByte_lt (findByte_colon_iff.mpr h)
  simp only [indexField, List.length_take, List.length_drop]
  omega

/-- The index field is empty exactly when the colon stands at the cursor. -/
theorem FirstColon.indexField_eq_nil_iff {text : List Byte} {pos c : Nat} (h : FirstColon text pos c) :
    indexField text pos c = [] ↔ c = pos := by
  have hle : pos ≤ c := h.1
  rw [← List.length_eq_zero_iff, h.length_indexField]
  omega

theorem decimalDigit_eq_none_iff (b : Byte) : decimalDigit? b = none ↔ b.toNat < 0x30 ∨ 0x39 < b.toNat := by
  simp only [decimalDigit?, ite_eq_right_iff, reduceCtorEq, imp_false]
  omega

theorem decimalFrom_eq_none_iff (acc : Nat) (bs : List Byte) :
    decimalFrom acc bs = none ↔ ∃ b ∈ bs, decimalDigit? b = none := by
  induction bs generalizing acc with
  | nil => simp [decimalFrom]
  | cons b rest ih => cases hb : decimalDigit? b <;> simp [decimalFrom, hb, ih]

/-- A field spells no number when it is empty or holds a byte that is no decimal digit (R74, R104). -/
theorem decimalValue_eq_none_iff (bs : List Byte) :
    decimalValue? bs = none ↔ bs = [] ∨ ∃ b ∈ bs, b.toNat < 0x30 ∨ 0x39 < b.toNat := by
  cases bs with
  | nil => simp [decimalValue?]
  | cons b rest => simp only [decimalValue?, decimalFrom_eq_none_iff, decimalDigit_eq_none_iff, reduceCtorEq, false_or]

/-- Bytes are no colour when they are not six, or one of them is no hex digit (R105). -/
theorem colourField_eq_none_iff (bs : List Byte) :
    colourField? bs = none ↔ bs.length ≠ 6 ∨ ∃ b ∈ bs, hexDigit? b = none := by
  unfold colourField?
  split
  · split
    · simp [*]
    · rename_i b0 b1 b2 b3 b4 b5 _ _ _ _ _ _ hnot
      refine iff_of_true rfl (.inr ?_)
      by_contra hall
      have hdigit : ∀ b ∈ [b0, b1, b2, b3, b4, b5], ∃ h, hexDigit? b = some h :=
        fun b hb => Option.ne_none_iff_exists'.mp fun hn => hall ⟨b, hb, hn⟩
      simp only [List.forall_mem_cons] at hdigit
      obtain ⟨⟨h0, e0⟩, ⟨h1, e1⟩, ⟨h2, e2⟩, ⟨h3, e3⟩, ⟨h4, e4⟩, ⟨h5, e5⟩, -⟩ := hdigit
      exact hnot h0 h1 h2 h3 h4 h5 e0 e1 e2 e3 e4 e5
  · rename_i hnot
    refine iff_of_true rfl (.inl fun hlen => ?_)
    match bs, hlen with
    | [b0, b1, b2, b3, b4, b5], _ => exact hnot b0 b1 b2 b3 b4 b5 rfl

/-- The bytes after offset `e` hold no colour field when fewer than six are left, or one of the six is no hex digit
(R105). -/
theorem colourField_drop_eq_none_iff (text : List Byte) (e : Nat) :
    colourField? ((text.drop e).take 6) = none ↔
      text.length < e + 6 ∨ ∃ k b, k < 6 ∧ text[e + k]? = some b ∧ hexDigit? b = none := by
  have hlen : ((text.drop e).take 6).length ≠ 6 ↔ text.length < e + 6 := by
    simp only [List.length_take, List.length_drop]
    omega
  have hmem (b : Byte) : b ∈ (text.drop e).take 6 ↔ ∃ k, k < 6 ∧ text[e + k]? = some b := by
    simp [List.mem_iff_getElem?, List.getElem?_take, List.getElem?_drop]
  simp only [colourField_eq_none_iff, hlen, hmem]
  exact or_congr_right ⟨fun ⟨b, ⟨k, hk, hb⟩, hhex⟩ => ⟨k, b, hk, hb, hhex⟩,
    fun ⟨k, b, hk, hb, hhex⟩ => ⟨b, ⟨k, hk, hb⟩, hhex⟩⟩

/-! ### One entry -/

/-- What the entry at the cursor is, by the rules: each constructor is one check that ends the decoding of an entry, after
the checks before it have passed (R79, R102 to R106). -/
inductive EntryAt (p : Params) (text : List Byte) (pos : Nat) : Except DecodeError Entry → Prop
  | noColon (nowhere : ∀ k, pos ≤ k → text[k]? ≠ some colon) : EntryAt p text pos (.error .missingColon)
  | longIndex (c : Nat) (colonAt : FirstColon text pos c) (long : p.indexMaxChars < c - pos) :
      EntryAt p text pos (.error .indexTooLong)
  | noNumber (c : Nat) (colonAt : FirstColon text pos c) (short : c - pos ≤ p.indexMaxChars)
      (noValue : decimalValue? (indexField text pos c) = none) : EntryAt p text pos (.error .indexOutOfRange)
  | noLight (c i : Nat) (colonAt : FirstColon text pos c) (short : c - pos ≤ p.indexMaxChars)
      (value : decimalValue? (indexField text pos c) = some i) (large : 7 ≤ i) :
      EntryAt p text pos (.error .indexOutOfRange)
  | badColour (c i : Nat) (colonAt : FirstColon text pos c) (short : c - pos ≤ p.indexMaxChars)
      (value : decimalValue? (indexField text pos c) = some i) (light : i < 7)
      (noColour : colourField? ((text.drop (c + 1)).take 6) = none) : EntryAt p text pos (.error .invalidHexDigit)
  | good (c i : Nat) (v : Rgb) (colonAt : FirstColon text pos c) (short : c - pos ≤ p.indexMaxChars)
      (value : decimalValue? (indexField text pos c) = some i) (light : i < 7)
      (colour : colourField? ((text.drop (c + 1)).take 6) = some v) : EntryAt p text pos (.ok ⟨⟨i, light⟩, v, c + 7⟩)

/-- The decoder's answer once the first colon is found: the checks left, in their order (R79). -/
theorem decodeEntry_of_firstColon (p : Params) {text : List Byte} {pos c : Nat} (h : FirstColon text pos c) :
    decodeEntry p text pos =
      if p.indexMaxChars < c - pos then .error .indexTooLong
      else
        match decimalValue? (indexField text pos c) with
        | none => .error .indexOutOfRange
        | some i =>
          if light : i < 7 then
            match colourField? ((text.drop (c + 1)).take 6) with
            | none => .error .invalidHexDigit
            | some v => .ok ⟨⟨i, light⟩, v, c + 7⟩
          else .error .indexOutOfRange := by
  rw [← h.length_indexField]
  unfold decodeEntry
  split
  · rename_i hnone
    exact absurd ((findByte_colon_iff.mpr h).symm.trans hnone) nofun
  · rename_i c' hc'
    obtain rfl : c = c' := Option.some.inj ((findByte_colon_iff.mpr h).symm.trans hc')
    rfl

/-- The decoder's answer is an entry by the rules. -/
theorem decodeEntry_entryAt (p : Params) (text : List Byte) (pos : Nat) :
    EntryAt p text pos (decodeEntry p text pos) := by
  cases hc : findByte colon text pos with
  | none =>
    rw [decodeEntry, hc]
    exact .noColon ((findByte_eq_none_iff colon text pos).mp hc)
  | some c =>
    have hcolon := findByte_colon_iff.mp hc
    rw [decodeEntry_of_firstColon p hcolon]
    split
    · exact .longIndex c hcolon ‹_›
    · have hshort : c - pos ≤ p.indexMaxChars := Nat.le_of_not_lt ‹_›
      split
      · exact .noNumber c hcolon hshort ‹_›
      · split
        · split
          · exact .badColour c _ hcolon hshort ‹_› ‹_› ‹_›
          · exact .good c _ _ hcolon hshort ‹_› ‹_› ‹_›
        · exact .noLight c _ hcolon hshort ‹_› (Nat.le_of_not_lt ‹_›)

/-- The rules determine the decoder's answer. -/
theorem EntryAt.decodeEntry_eq {p : Params} {text : List Byte} {pos : Nat} {r : Except DecodeError Entry}
    (h : EntryAt p text pos r) : decodeEntry p text pos = r := by
  cases h with
  | noColon hnowhere => simp [decodeEntry, (findByte_eq_none_iff colon text pos).mpr hnowhere]
  | longIndex c hcolon hlong => rw [decodeEntry_of_firstColon p hcolon, if_pos hlong]
  | noNumber c hcolon hshort hvalue =>
    rw [decodeEntry_of_firstColon p hcolon, if_neg (Nat.not_lt.mpr hshort), hvalue]
  | noLight c i hcolon hshort hvalue hlarge =>
    simp [decodeEntry_of_firstColon p hcolon, Nat.not_lt.mpr hshort, hvalue, Nat.not_lt.mpr hlarge]
  | badColour c i hcolon hshort hvalue hlight hcolour =>
    simp [decodeEntry_of_firstColon p hcolon, Nat.not_lt.mpr hshort, hvalue, hlight, hcolour]
  | good c i v hcolon hshort hvalue hlight hcolour =>
    simp [decodeEntry_of_firstColon p hcolon, Nat.not_lt.mpr hshort, hvalue, hlight, hcolour]

/-- Decoding the entry at the cursor answers exactly what the rules say. -/
theorem decodeEntry_eq_iff {p : Params} {text : List Byte} {pos : Nat} {r : Except DecodeError Entry} :
    decodeEntry p text pos = r ↔ EntryAt p text pos r :=
  ⟨fun h => h ▸ decodeEntry_entryAt p text pos, EntryAt.decodeEntry_eq⟩

/-- Settles O5: only the colon search ends with `MissingColon`. -/
theorem missingColonExactlyWhenNoColonFollows : Obligations.MissingColonExactlyWhenNoColonFollows := by
  intro p text pos
  rw [decodeEntry_eq_iff]
  exact ⟨fun | .noColon hnowhere => hnowhere, .noColon⟩

/-- Settles O6: only the check of the index field's length ends with `IndexTooLong`. -/
theorem indexTooLongExactlyWhenFieldExceedsLimit : Obligations.IndexTooLongExactlyWhenFieldExceedsLimit := by
  intro p text pos
  rw [decodeEntry_eq_iff]
  exact ⟨fun | .longIndex c hcolon hlong => ⟨c, hcolon, hlong⟩, fun ⟨c, hcolon, hlong⟩ => .longIndex c hcolon hlong⟩

/-- Behind the first colon, a field that spells no number is the empty field or holds a byte that is no digit (R74). -/
theorem FirstColon.decimalValue_eq_none_iff {text : List Byte} {pos c : Nat} (h : FirstColon text pos c) :
    decimalValue? (indexField text pos c) = none ↔
      c = pos ∨ ∃ b ∈ indexField text pos c, b.toNat < 0x30 ∨ 0x39 < b.toNat := by
  rw [Sys2Proof.decimalValue_eq_none_iff, h.indexField_eq_nil_iff]

/-- Settles O7: two checks end with `IndexOutOfRange`, on a field that spells no number and on a number too large. -/
theorem indexOutOfRangeExactlyWhenNoLightIsNamed : Obligations.IndexOutOfRangeExactlyWhenNoLightIsNamed := by
  intro p text pos
  rw [decodeEntry_eq_iff]
  constructor
  · intro h
    cases h with
    | noNumber c hcolon hshort hvalue =>
      exact ⟨c, hcolon, hshort, or_assoc.mp (.inl (hcolon.decimalValue_eq_none_iff.mp hvalue))⟩
    | noLight c i hcolon hshort hvalue hlarge => exact ⟨c, hcolon, hshort, .inr (.inr ⟨i, hvalue, hlarge⟩)⟩
  · rintro ⟨c, hcolon, hshort, h⟩
    rcases or_assoc.mpr h with hnone | ⟨i, hvalue, hlarge⟩
    · exact .noNumber c hcolon hshort (hcolon.decimalValue_eq_none_iff.mpr hnone)
    · exact .noLight c i hcolon hshort hvalue hlarge

/-- Settles O8: only the colour field's check ends with `InvalidHexDigit`, and it comes after the index names a light. -/
theorem invalidHexDigitExactlyWhenColourFieldIsBad : Obligations.InvalidHexDigitExactlyWhenColourFieldIsBad := by
  intro p text pos
  rw [decodeEntry_eq_iff]
  constructor
  · intro h
    cases h with
    | badColour c i hcolon hshort hvalue hlight hcolour =>
      exact ⟨c, i, hcolon, hshort, hvalue, hlight, (colourField_drop_eq_none_iff text (c + 1)).mp hcolour⟩
  · rintro ⟨c, i, hcolon, hshort, hvalue, hlight, hbad⟩
    exact .badColour c i hcolon hshort hvalue hlight ((colourField_drop_eq_none_iff text (c + 1)).mpr hbad)

/-! ### The separator -/

/-- Settles O9: the two modes are the search for a comma and the test of the byte at `e`. -/
theorem separatorStartsTheNextEntry : Obligations.SeparatorStartsTheNextEntry := by
  intro p text e q
  cases hmode : p.sepMode with
  | scan =>
    simp only [nextEntry, hmode, Option.map_eq_some_iff, findByte_eq_some_iff, and_assoc, eq_comm (b := q)]
  | adjacent => simp [nextEntry, hmode, eq_comm (b := q)]

/-! ### The decode loop -/

section Loop

variable {p : Params} {text : List Byte} {pos : Nat} (fuel : Nat)

/-- A turn of the loop at an entry that fails (R108). -/
theorem parseLoop_of_error {e : DecodeError} (hentry : decodeEntry p text pos = .error e) :
    parseLoop p text (fuel + 1) pos = ([], some e) := by
  simp [parseLoop, hentry]

/-- A turn of the loop at the last entry (R106, R108). -/
theorem parseLoop_of_last {d : Entry} (hentry : decodeEntry p text pos = .ok d)
    (hnext : nextEntry p text d.stop = none) :
    parseLoop p text (fuel + 1) pos = ([(d.index, d.rgb)], none) := by
  simp [parseLoop, hentry, hnext]

/-- A turn of the loop at an entry that another one follows (R106, R108). -/
theorem parseLoop_of_next {d : Entry} {q : Nat} (hentry : decodeEntry p text pos = .ok d)
    (hnext : nextEntry p text d.stop = some q) :
    parseLoop p text (fuel + 1) pos =
      ((d.index, d.rgb) :: (parseLoop p text fuel q).1, (parseLoop p text fuel q).2) := by
  simp [parseLoop, hentry, hnext]

end Loop

/-- The next entry leaves fewer bytes than the one before it had, so a bound that covered that one covers the next with a
turn to spare (R37, R106). -/
theorem length_sub_next_lt {p : Params} {text : List Byte} {pos q fuel : Nat} {d : Entry}
    (hfuel : text.length - pos < fuel + 1) (hentry : decodeEntry p text pos = .ok d)
    (hnext : nextEntry p text d.stop = some q) : text.length - q < fuel := by
  obtain ⟨hstart, -⟩ := decodeEntry_ok_stop hentry
  obtain ⟨hlt, hle, -⟩ := nextEntry_some hnext
  omega

/-- One more turn than the bytes left need changes nothing: the bound is never met (log 21). -/
theorem parseLoop_succ_of_length_sub_lt {p : Params} {text : List Byte} (fuel pos : Nat)
    (hfuel : text.length - pos < fuel) : parseLoop p text (fuel + 1) pos = parseLoop p text fuel pos := by
  induction fuel generalizing pos with
  | zero => exact absurd hfuel (Nat.not_lt_zero _)
  | succ n ih =>
    cases hentry : decodeEntry p text pos with
    | error e => rw [parseLoop_of_error _ hentry, parseLoop_of_error _ hentry]
    | ok d =>
      cases hnext : nextEntry p text d.stop with
      | none => rw [parseLoop_of_last _ hentry hnext, parseLoop_of_last _ hentry hnext]
      | some q =>
        rw [parseLoop_of_next _ hentry hnext, parseLoop_of_next _ hentry hnext,
          ih q (length_sub_next_lt hfuel hentry hnext)]

/-- Settles O4: with one more turn the bounded loop is one turn of the rule's loop, and that turn is not needed. -/
theorem decodeLoopObeysItsPseudocode : Obligations.DecodeLoopObeysItsPseudocode := by
  intro p text fuel pos hfuel
  rw [← parseLoop_succ_of_length_sub_lt fuel pos hfuel]
  cases hentry : decodeEntry p text pos with
  | error e => exact parseLoop_of_error fuel hentry
  | ok d =>
    cases hnext : nextEntry p text d.stop with
    | none => simpa [hnext] using parseLoop_of_last fuel hentry hnext
    | some q => simpa [hnext] using parseLoop_of_next fuel hentry hnext

/-! ### Spellings of a colour -/

/-- The case of a letter does not change its value as a hex digit, and makes no other letter one (R71, R109). -/
@[simp] theorem hexDigit_lowerCase (b : Byte) : hexDigit? (lowerCase b) = hexDigit? b := by
  unfold lowerCase
  split
  · rename_i hletter
    have hlower : (b + 0x20).toNat = b.toNat + 0x20 := by bv_omega
    have hvalue : b.toNat + 0x20 - 0x61 + 10 = b.toNat - 0x41 + 10 := by omega
    by_cases hhex : b.toNat ≤ 0x46
    · have hdigit : hexDigit? b = some (BitVec.ofNat 4 (b.toNat - 0x41 + 10)) := by
        rw [hexDigit?, if_neg (by omega), if_pos ⟨hletter.1, hhex⟩]
      rw [hdigit, hexDigit?, hlower, if_neg (by omega), if_neg (by omega), if_pos (by omega), hvalue]
    · have hdigit : hexDigit? b = none := by
        rw [hexDigit?, if_neg (by omega), if_neg (by omega), if_neg (by omega)]
      rw [hdigit, hexDigit?, hlower, if_neg (by omega), if_neg (by omega), if_neg (by omega)]
  · rfl

/-- A colour field in lower case is the same colour, or no colour just as before (R109). -/
theorem colourField_map_lowerCase (bs : List Byte) : colourField? (bs.map lowerCase) = colourField? bs := by
  by_cases hlen : bs.length = 6
  · match bs, hlen with
    | [b0, b1, b2, b3, b4, b5], _ => simp [colourField?]
  · rw [(colourField_eq_none_iff bs).mpr (.inl hlen),
      (colourField_eq_none_iff _).mpr (.inl (by rwa [List.length_map]))]

/-- Settles O11: two spellings with the same lower case read alike, and one of them is the canonical one. -/
theorem colourSpellingsReadBack : Obligations.ColourSpellingsReadBack := by
  intro v digits hcase
  calc colourField? digits = colourField? (digits.map lowerCase) := (colourField_map_lowerCase digits).symm
    _ = colourField? ((colourText v).map lowerCase) := by rw [hcase]
    _ = colourField? (colourText v) := colourField_map_lowerCase _
    _ = some v := colourField_colourText v

end Sys2Proof
end

section
/-!
SUPPORT. APPLY and the operations inside its body, by the caller's phase: what one entry does to the light registers and the
transients, and what the writes of a whole text leave in each register.
-/

namespace Sys2Proof.Machine

/-! ### Writes to the light registers -/

/-- A register holds what the last write that names it gave (R112). -/
theorem writeLights_getElem_of_last (lights : LightArray) (front back : List (LightIndex × Rgb)) (j : LightIndex)
    (v : Rgb) (hback : ∀ w ∈ back, w.1 ≠ j) : (writeLights lights (front ++ (j, v) :: back))[j] = v := by
  rw [writeLights_append, writeLights, writeLights_getElem_of_not_named _ back j hback]
  exact Vector.getElem_set_self ..

/-! ### Whole APPLYs -/

/-- The first step of an idle caller's APPLY (R146). -/
theorem exec_apply_of_idle {s : State} {text : List Byte} (h : s.phase s.cur = .idle) :
    exec (.apply text) s = .next (ledAccept s.cur text s) := by
  simp [exec, execApply, applyStep, h]

/-- Settles O18: an open unit leaves only the length check between the text and its capture. -/
theorem ledAcceptChecksTheLength : Obligations.LedAcceptChecksTheLength := by
  intro s text hidle hopen
  rw [exec_apply_of_idle hidle]
  rcases ledAccept_cases s.cur text s with ⟨hclosed, -⟩ | ⟨-, hlong, h⟩ | ⟨-, hfits, h⟩
  · exact absurd (hopen.symm.trans hclosed) nofun
  · exact ⟨fun _ => congrArg _ h, fun hfits => absurd hlong (Nat.not_lt.mpr hfits)⟩
  · exact ⟨fun hlong => absurd hlong (Nat.not_lt.mpr hfits), fun _ => congrArg _ h⟩

/-- Settles O21: the canonical text decodes to its entries, and the body writes and sends what the text decodes to. -/
theorem canonicalApplyShowsItsEntries : Obligations.CanonicalApplyShowsItsEntries := by
  intro s text entries hne hmax hp
  have hparse := canonicalTextDecodesToItsEntries s.params entries hne hmax
  have hdecoded : (parseText s.params (encodeText entries)).2 = none := by rw [hparse]
  have hlights : appliedLights s.params s.led.lights (encodeText entries) = writeLights s.led.lights entries := by
    rw [appliedLights_of_decoded hdecoded, hparse]
  refine ⟨_, exec_apply_of_holding hp, ?_⟩
  rw [ledBody_of_decoded _ _ s hdecoded, hlights]
  exact ⟨rfl, rfl, rfl, phase_endOp_same _ _ _⟩

/-- Settles O23: a body that decodes leaves the registers as its writes in text order leave them. -/
theorem lastEntryForALightDecides : Obligations.LastEntryForALightDecides := by
  intro s text buf j hp hdecoded
  refine ⟨_, exec_apply_of_holding hp, ?_⟩
  rw [(applyRan_ledBody s.cur buf s hdecoded).lights]
  refine ⟨writeLights_getElem_of_not_named _ _ j, fun v front back hsplit hback => ?_⟩
  rw [hsplit]
  exact writeLights_getElem_of_last _ front back j v hback

/-! ### The operations inside a body -/

/-- A caller that holds the LED lock is inside a body (R32). -/
theorem insideBody_of_holding {F : State → State} {s : State} {buf : List Byte}
    (h : s.phase s.cur = .ledHolding buf) : insideBody F s = F s := by
  simp [insideBody, h, Phase.isLedHolding]

theorem exec_entry_of_holding {s : State} {text buf : List Byte} {pos : Nat} (h : s.phase s.cur = .ledHolding buf) :
    exec (.entry text pos) s = .next (entryOp text pos s) :=
  congrArg Host.Outcome.next (insideBody_of_holding h)

theorem exec_entryWrite_of_holding {s : State} {buf : List Byte} {i : LightIndex} {v : Rgb}
    (h : s.phase s.cur = .ledHolding buf) : exec (.entryWrite i v) s = .next (entryWriteOp i v s) :=
  congrArg Host.Outcome.next (insideBody_of_holding h)

/-- Settles O24: an entry fails, or its write comes before what the separator decides. -/
theorem entryRunsOneTurnOfTheDecodeLoop : Obligations.EntryRunsOneTurnOfTheDecodeLoop := by
  intro s text buf pos hp
  rw [exec_entry_of_holding hp]
  refine ⟨fun e hentry => ?_, fun d q hentry hnext => ?_, fun d hentry hnext => ?_⟩
  · simp [entryOp, hentry, decodeFails, State.setScratch]
  · have hgoes : entryOp text pos s = decodeGoesOn q (entryWriteOp d.index d.rgb s) := by simp [entryOp, hentry, hnext]
    rw [hgoes, entryWriteOp_eq]
    cases s.params.applyAtomic <;> rfl
  · have hends : entryOp text pos s = decodeSucceeds (entryWriteOp d.index d.rgb s) := by simp [entryOp, hentry, hnext]
    rw [hends, entryWriteOp_eq]
    cases s.params.applyAtomic <;> rfl

/-- Settles O25: `entryWriteOp_eq` names all that ENTRY_WRITE changes, in both settings. -/
theorem entryWriteWritesOrStages : Obligations.EntryWriteWritesOrStages := by
  intro s buf i v hp
  refine ⟨_, exec_entryWrite_of_holding hp, ?_⟩
  rw [entryWriteOp_eq]
  refine ⟨rfl, rfl, fun hatonce => ?_, fun hatomic => ?_⟩
  · have hother (j : LightIndex) (hj : j ≠ i) : (s.led.lights.set i v)[j] = s.led.lights[j] :=
      Vector.getElem_set_ne _ _ fun h => hj (Fin.ext h.symm)
    simpa [hatonce] using hother
  · simp [hatomic]

end Sys2Proof.Machine
end

section
/-!
SUPPORT. The WireFrame byte by byte, the light registers read back from it, and a text of one entry with its colour in any
spelling.
-/

namespace Sys2Proof

/-! ### The layout of the WireFrame -/

/-- Each light takes one group of four bytes (R51). -/
theorem length_flatMap_lightGroup (vs : List Rgb) : (vs.flatMap lightGroup).length = 4 * vs.length := by
  induction vs with
  | nil => rfl
  | cons v rest ih =>
    rw [List.flatMap_cons, List.length_append, ih, List.length_cons]
    simp only [lightGroup, List.length_cons, List.length_nil]
    omega

/-- The groups stand one after the other, so light `i`'s starts at `4i` (R51). -/
theorem getElem?_flatMap_lightGroup (vs : List Rgb) (i : Nat) (hi : i < vs.length) (k : Nat) (hk : k < 4) :
    (vs.flatMap lightGroup)[4 * i + k]? = (lightGroup vs[i])[k]? := by
  induction vs generalizing i with
  | nil => exact absurd hi (Nat.not_lt_zero i)
  | cons v rest ih =>
    rw [List.flatMap_cons]
    have hgroup : (lightGroup v).length = 4 := rfl
    cases i with
    | zero => simpa using List.getElem?_append_left (hk.trans_eq hgroup.symm)
    | succ i =>
      have hoffset : 4 * (i + 1) + k - 4 = 4 * i + k := by omega
      rw [List.getElem?_append_right (by omega), hgroup, hoffset, List.getElem_cons_succ]
      exact ih i (Nat.lt_of_succ_lt_succ hi)

/-- The groups of the seven lights are the 28 bytes between the two markers (R76). -/
theorem length_lightGroups (lights : LightArray) : (lights.toList.flatMap lightGroup).length = 28 := by
  rw [length_flatMap_lightGroup, Vector.length_toList]

/-- The frame opens with four zero bytes (R76). -/
theorem encodeFrame_getElem?_start (lights : LightArray) {k : Nat} (hk : k < 4) :
    (encodeFrame lights)[k]? = some 0x00 := by
  rw [encodeFrame, List.append_assoc, List.getElem?_append_left (by simpa using hk)]
  exact List.getElem?_replicate_of_lt hk

/-- Behind the start bytes light `i`'s group stands at `4 + 4i` (R76). -/
theorem encodeFrame_getElem?_group (lights : LightArray) (i : LightIndex) {k : Nat} (hk : k < 4) :
    (encodeFrame lights)[4 + 4 * i.val + k]? = (lightGroup lights[i])[k]? := by
  have hstart : (List.replicate Config.startLen (0x00 : Byte)).length = 4 := List.length_replicate
  have hi : i.val < lights.toList.length := i.isLt.trans_eq (Vector.length_toList).symm
  have hinside : 4 * i.val + k < (lights.toList.flatMap lightGroup).length := by
    rw [length_lightGroups]
    omega
  have hoffset : 4 + 4 * i.val + k - 4 = 4 * i.val + k := by omega
  rw [encodeFrame, List.append_assoc, List.getElem?_append_right (by omega), hstart, hoffset,
    List.getElem?_append_left hinside, getElem?_flatMap_lightGroup _ i.val hi k hk]
  simp

/-- The frame closes with four bytes `0xFF` (R76). -/
theorem encodeFrame_getElem?_end (lights : LightArray) {k : Nat} (hlo : 32 ≤ k) (hhi : k < 36) :
    (encodeFrame lights)[k]? = some 0xFF := by
  have hfront : (List.replicate Config.startLen 0x00 ++ lights.toList.flatMap lightGroup).length = 32 := by
    rw [List.length_append, List.length_replicate, length_lightGroups]
  rw [encodeFrame, List.getElem?_append_right (hfront.trans_le hlo), hfront]
  have hmarker : k - 32 < 4 := by omega
  exact List.getElem?_replicate_of_lt hmarker

/-- Settles O13: the frame is its start bytes, the seven groups and its end marker, each at its offset. -/
theorem wireFrameHasTheLayoutOfTheRule : Obligations.WireFrameHasTheLayoutOfTheRule := by
  intro lights
  refine ⟨length_encodeFrame lights, fun k => encodeFrame_getElem?_start lights, fun i => ?_,
    fun k => encodeFrame_getElem?_end lights⟩
  have hgroup (k : Nat) (hk : k < 4) := encodeFrame_getElem?_group lights i hk
  exact ⟨hgroup 0 (by decide), hgroup 1 (by decide), hgroup 2 (by decide), hgroup 3 (by decide)⟩

/-! ### Reading the registers back -/

/-- A colour is its three channels, red above green above blue (R20). -/
theorem red_append_green_append_blue (v : Rgb) : (red v ++ green v ++ blue v : BitVec (8 + 8 + 8)) = v := by
  apply BitVec.eq_of_toNat_eq
  have hv := v.isLt
  simp only [red, green, blue, toNat_append_eq_add, BitVec.extractLsb'_toNat, Nat.shiftRight_eq_div_pow]
  omega

/-- A light's group shows all three of its channels, so no two colours share a group (R131). -/
theorem lightGroup_injective : Function.Injective lightGroup := by
  intro u v h
  simp only [lightGroup, List.cons.injEq, true_and, and_true] at h
  obtain ⟨hblue, hgreen, hred⟩ := h
  rw [← red_append_green_append_blue u, hred, hgreen, hblue, red_append_green_append_blue]

/-- Light `i`'s group is the four bytes of the frame at `4 + 4i`. -/
theorem take_drop_encodeFrame (lights : LightArray) (i : LightIndex) :
    ((encodeFrame lights).drop (4 + 4 * i.val)).take 4 = lightGroup lights[i] := by
  refine List.ext_getElem? fun k => ?_
  by_cases hk : k < 4
  · rw [List.getElem?_take_of_lt hk, List.getElem?_drop, encodeFrame_getElem?_group lights i hk]
  · have hgroup : (lightGroup lights[i]).length ≤ k := Nat.le_of_not_lt hk
    rw [List.getElem?_take_eq_none (Nat.le_of_not_lt hk), List.getElem?_eq_none hgroup]

/-- Settles O14: equal frames have equal groups at every light's offset, and a group determines its colour. -/
theorem wireFrameDeterminesTheLights : Obligations.WireFrameDeterminesTheLights := by
  intro a b hframe
  refine Vector.ext fun i hi => lightGroup_injective ?_
  calc lightGroup a[i] = ((encodeFrame a).drop (4 + 4 * i)).take 4 := (take_drop_encodeFrame a ⟨i, hi⟩).symm
    _ = ((encodeFrame b).drop (4 + 4 * i)).take 4 := by rw [hframe]
    _ = lightGroup b[i] := take_drop_encodeFrame b ⟨i, hi⟩

/-! ### A text of one entry -/

/-- One entry with its colour in any spelling decodes to its light and colour (R102 to R105, R109). -/
theorem decodeEntry_of_colourField {p : Params} (hp : 1 ≤ p.indexMaxChars) (i : LightIndex) {digits : List Byte}
    {v : Rgb} (hcolour : colourField? digits = some v) :
    decodeEntry p (entryText i.val digits) 0 = .ok { index := i, rgb := v, stop := 8 } := by
  have hcolon : findByte colon (indexDigit i :: colon :: digits) 0 = some 1 := findByte_colon_entry [] digits i
  have hlimit : ¬ p.indexMaxChars < 1 := Nat.not_lt.mpr hp
  have hfield : digits.take 6 = digits := List.take_of_length_le (colourField_eq_some_length hcolour).le
  simp [entryText_lightIndex, decodeEntry, hcolon, hlimit, hfield, hcolour]

/-- The text of that entry alone decodes to its one write: nothing follows where the entry ends (R106, R108). -/
theorem parseText_of_colourField {p : Params} (hp : 1 ≤ p.indexMaxChars) (i : LightIndex) {digits : List Byte}
    {v : Rgb} (hcolour : colourField? digits = some v) : parseText p (entryText i.val digits) = ([(i, v)], none) := by
  have hlen : (entryText i.val digits).length = 8 := by
    rw [entryText_lightIndex, List.length_cons, List.length_cons, colourField_eq_some_length hcolour]
  exact parseLoop_of_last _ (decodeEntry_of_colourField hp i hcolour) (nextEntry_of_length_le p hlen.le)

end Sys2Proof
end

section
/-!
SUPPORT. APPLY's acquire and body as whole steps, the frame of a one-entry APPLY, ENCODE and TRANSMIT inside a body, and the
external interruption.
-/

namespace Sys2Proof.Machine

/-! ### The steps of APPLY -/

/-- Settles O19: the step is LED_ACQUIRE of the captured text, which goes by the lock (R147). -/
theorem ledAcquireTakesAFreeLock : Obligations.LedAcquireTakesAFreeLock := by
  intro s text buf hp
  rw [exec_apply_of_waiting hp]
  rcases ledAcquire_cases s.cur buf s with ⟨hfree, h⟩ | ⟨d, hheld, h⟩
  · exact ⟨fun _ => congrArg _ h, fun d hheld => absurd (hfree.symm.trans hheld) nofun⟩
  · exact ⟨fun hfree => absurd (hfree.symm.trans hheld) nofun, fun _ _ => congrArg _ h⟩

/-- Settles O20: the step is the body of the captured text, which goes by whether that text decodes (R141, R144). -/
theorem ledBodyDecodesSendsAndReleases : Obligations.LedBodyDecodesSendsAndReleases := by
  intro s text buf hp
  rw [exec_apply_of_holding hp]
  cases hdecode : (parseText s.params buf).2 with
  | some e => exact congrArg _ (ledBody_of_decode_error s.cur buf s hdecode)
  | none => exact congrArg _ (ledBody_of_decoded s.cur buf s hdecode)

/-- Settles O22: the entry's write is the last word on its light, and the frame sent shows that light at `4 + 4i`. -/
theorem applyOfOneEntrySendsItsGroup : Obligations.ApplyOfOneEntrySendsItsGroup := by
  intro s text digits i v hcolour hmax hp
  have hparse := parseText_of_colourField hmax i hcolour
  have body := applyRan_ledBody s.cur (entryText i.val digits) s (by rw [hparse])
  obtain ⟨x, hsent⟩ := body.sent
  have hlight : (ledBody s.cur (entryText i.val digits) s).led.lights[i] = v := by
    rw [body.lights, hparse]
    exact writeLights_getElem_of_last s.led.lights [] [] i v nofun
  obtain ⟨-, -, hgroups, -⟩ := wireFrameHasTheLayoutOfTheRule (ledBody s.cur (entryText i.val digits) s).led.lights
  refine ⟨_, _, exec_apply_of_holding hp, hsent, ?_⟩
  rw [← hlight]
  exact hgroups i

/-! ### ENCODE and TRANSMIT inside a body -/

theorem exec_encode_of_holding {s : State} {buf : List Byte} (h : s.phase s.cur = .ledHolding buf) :
    exec .encode s = .next (encodeOp s) :=
  congrArg Host.Outcome.next (insideBody_of_holding h)

/-- A frame of the right length is sent as it is (R76, R142). -/
theorem exec_transmit_of_holding {s : State} {buf frame : List Byte} (h : s.phase s.cur = .ledHolding buf)
    (hlen : frame.length = Config.frameLen) : exec (.transmit frame) s = .next (s.transmitFrame frame) :=
  congrArg Host.Outcome.next ((insideBody_of_holding h).trans (if_pos hlen))

/-- Settles O26: inside a body ENCODE is `encodeOp`, which sets the frame buffer alone. -/
theorem encodeFillsTheFrameBuffer : Obligations.EncodeFillsTheFrameBuffer := by
  intro s buf hp
  exact exec_encode_of_holding hp

/-- Settles O27: inside a body TRANSMIT of a whole frame is one call of the transport sink (R142). -/
theorem transmitAppendsOneRecord : Obligations.TransmitAppendsOneRecord := by
  intro s buf frame hp hlen
  exact exec_transmit_of_holding hp hlen

/-! ### The external interruption -/

/-- An interruption that is the first event is delivered to the machine without it (R206). -/
theorem step_interrupt {s : State} {c : Nat} {rest : List Event} (hmark : s.marks.timerSinkFault = false)
    (hsched : s.sched = .interrupt c :: rest) : step s = .next (ledInterrupt c { s with sched := rest }) := by
  simp [step, hmark, advance, hsched, takeEvent]

/-- Settles O42: the step is LED_INTERRUPT, which goes by whether the caller waits (R145). -/
theorem interruptionEndsOnlyAWait : Obligations.InterruptionEndsOnlyAWait := by
  intro s c rest hmark hsched
  rw [step_interrupt hmark hsched]
  rcases ledInterrupt_cases c { s with sched := rest } with ⟨buf, hwaits, h⟩ | ⟨hnot, h⟩
  · exact ⟨fun _ _ => congrArg _ h, fun hnot => absurd hwaits (hnot buf)⟩
  · exact ⟨fun buf hwaits => absurd hwaits (hnot buf), fun _ => congrArg _ h⟩

end Sys2Proof.Machine
end

section
/-!
SUPPORT. The buzzer converter: the arithmetic of the conversion, and BUZ_TRY and BUZ_BODY by the caller's phase, the lock and
the timer sink's answers.
-/

namespace Sys2Proof.Machine

/-! ### Period and duty -/

/-- The period exceeds a bound while one more than the bound, as often as the frequency says, fits into a second (R163). -/
theorem lt_periodNs_iff {f : Freq} (hf : f ≠ 0) (b : Nat) : b < periodNs f ↔ (b + 1) * f.toNat ≤ 1000000000 :=
  Nat.le_div_iff_mul_le (BitVec.toNat_pos_of_ne_zero hf)

theorem periodNs_mul_le (f : Freq) : periodNs f * f.toNat ≤ 1000000000 := Nat.div_mul_le_self ..

/-- No period is longer than a second. -/
theorem periodNs_le (f : Freq) : periodNs f ≤ 1000000000 := Nat.div_le_self ..

/-- Settles O32: the laws of rounding down, for the division by `f` and for the one by 2. -/
theorem periodAndDutyObeyTheArithmeticLaws : Obligations.PeriodAndDutyObeyTheArithmeticLaws := by
  intro f hf
  have hnext : 1000000000 < (periodNs f + 1) * f.toNat :=
    Nat.not_le.mp fun h => Nat.lt_irrefl _ ((lt_periodNs_iff hf _).mpr h)
  have hmax := periodNs_le f
  have hduty : dutyNs f = periodNs f / 2 := rfl
  refine ⟨periodNs_mul_le f, hnext, hmax, ?_⟩
  omega

/-! ### A timer-sink call -/

/-- A call that the timer sink answers `ok` leaves its record and uses up the answer (R39, R171). -/
theorem timerCall_of_ok {s : State} (h : s.timerAnswer = .ok) (k : TimerCall) :
    s.timerCall k =
      { s with buz := { s.buz with timerLog := s.buz.timerLog ++ [k] }, env := s.afterTimer } := by
  simp [State.timerCall, h]

/-- A call that the timer sink fails sets the mark (R171, R210). -/
theorem timerSinkFault_timerCall_of_fail {s : State} (h : s.timerAnswer = .fail) (k : TimerCall) :
    (s.timerCall k).marks.timerSinkFault = true := by
  simp [h]

/-- A machine that carries the mark stops (R210). -/
theorem step_of_timerSinkFault {s : State} (h : s.marks.timerSinkFault = true) : step s = .fault .timerSinkFault :=
  if_pos h

/-! ### The steps by the caller's phase -/

theorem exec_setfreqOff_of_idle {s : State} (h : s.phase s.cur = .idle) :
    exec .setfreqOff s = .next (buzTry s.cur 0 s) := by
  simp [exec, execSetfreqOff, setFreqStep, h]

theorem exec_setfreqTone_of_idle {s : State} {f : Freq} (h : s.phase s.cur = .idle) :
    exec (.setfreqTone f) s = .next (buzTry s.cur f s) := by
  simp [exec, execSetfreqTone, setFreqStep, h]

theorem exec_setfreqOff_of_holding {s : State} (h : s.phase s.cur = .buzHolding 0) :
    exec .setfreqOff s = .next (buzBody s.cur 0 s) :=
  exec_freqInstr_of_holding h

theorem exec_setfreqTone_of_holding {s : State} {f : Freq} (h : s.phase s.cur = .buzHolding f) :
    exec (.setfreqTone f) s = .next (buzBody s.cur f s) := by
  simp [exec, execSetfreqTone, setFreqStep, h]

/-! ### BUZ_TRY -/

theorem buzTry_of_closed {s : State} (hopen : s.buz.isOpen = false) (c : Nat) (f : Freq) :
    buzTry c f s = s.endOp c .deviceUnavailable :=
  if_pos hopen

theorem buzTry_of_free {s : State} (hopen : s.buz.isOpen = true) (hlock : s.buz.lock = .free) (c : Nat) (f : Freq) :
    buzTry c f s = (s.setBuzLock (.held c)).setPhase c (.buzHolding f) := by
  simp [buzTry, hopen, hlock]

theorem buzTry_of_held {s : State} {d : Nat} (hopen : s.buz.isOpen = true) (hlock : s.buz.lock = .held d) (c : Nat)
    (f : Freq) : buzTry c f s = s.endOp c .busyError := by
  simp [buzTry, hopen, hlock]

/-- Settles O28: both forms start with BUZ_TRY, which goes by the open flag and then by the lock (R162). -/
theorem buzTryTakesTheLockOrIsBusy : Obligations.BuzTryTakesTheLockOrIsBusy := by
  intro s f hidle
  rw [exec_setfreqOff_of_idle hidle, exec_setfreqTone_of_idle hidle]
  refine ⟨fun hopen => ?_, fun hopen hlock => ?_, fun d hopen hlock => ?_⟩
  · exact ⟨congrArg _ (buzTry_of_closed hopen _ 0), congrArg _ (buzTry_of_closed hopen _ f)⟩
  · exact ⟨congrArg _ (buzTry_of_free hopen hlock _ 0), congrArg _ (buzTry_of_free hopen hlock _ f)⟩
  · exact ⟨congrArg _ (buzTry_of_held hopen hlock _ 0), congrArg _ (buzTry_of_held hopen hlock _ f)⟩

/-! ### BUZ_BODY -/

/-- The first timer-sink call of a body whose period is within the bound (R164, R165). -/
def firstTimerCall (f : Freq) : TimerCall := if f = 0 then .disable else .configure (dutyNs f) (periodNs f)

/-- A body whose first timer-sink call fails ends with it (R171; log 10). -/
theorem buzBody_of_first_call_fails {s : State} {f : Freq} (hmax : periodNs f ≤ s.params.maxPeriodNs)
    (hfail : s.timerAnswer = .fail) (c : Nat) : buzBody c f s = s.timerCall (firstTimerCall f) := by
  by_cases hf : f = 0
  · simp [buzBody, buzOff, firstTimerCall, hf, hfail]
  · rw [buzBody, if_neg hf, buzTone, if_neg (Nat.not_lt.mpr hmax), if_pos hfail, firstTimerCall, if_neg hf]

theorem buzBody_zero_of_ok {s : State} (hok : s.timerAnswer = .ok) (c : Nat) :
    buzBody c 0 s = finishSetFreq c .ok ((s.timerCall .disable).setTone (toneOff s.buz.tone)) := by
  simp [buzBody, buzOff, hok]

/-- The range check comes before any timer-sink call (R165). -/
theorem buzBody_of_overflow {s : State} {f : Freq} (hf : f ≠ 0) (hmax : s.params.maxPeriodNs < periodNs f) (c : Nat) :
    buzBody c f s = finishSetFreq c .periodOverflow s := by
  rw [buzBody, if_neg hf, buzTone, if_pos hmax]

theorem buzBody_of_configured {s : State} {f : Freq} (hf : f ≠ 0) (hmax : periodNs f ≤ s.params.maxPeriodNs)
    (hok : s.timerAnswer = .ok) (c : Nat) :
    buzBody c f s = buzEnable c f (s.timerCall (.configure (dutyNs f) (periodNs f))) := by
  rw [buzBody, if_neg hf, buzTone, if_neg (Nat.not_lt.mpr hmax), if_neg (by simp [hok])]

theorem buzEnable_of_fail {s : State} (hfail : s.timerAnswer = .fail) (c : Nat) (f : Freq) :
    buzEnable c f s = s.timerCall .enable :=
  if_pos hfail

theorem buzEnable_of_ok {s : State} (hok : s.timerAnswer = .ok) (c : Nat) (f : Freq) :
    buzEnable c f s = finishSetFreq c .ok ((s.timerCall .enable).setTone (toneOn f)) := by
  simp [buzEnable, hok]

/-- Settles O29: the step is the body, whose one call is answered `ok`. -/
theorem setFreqOffDisablesTheTone : Obligations.SetFreqOffDisablesTheTone := by
  intro s hp hok
  rw [exec_setfreqOff_of_holding hp, buzBody_zero_of_ok hok, timerCall_of_ok hok]
  rfl

/-- Settles O30: the step is the body, whose two calls are both answered `ok`. -/
theorem setFreqToneProgramsTheTimer : Obligations.SetFreqToneProgramsTheTimer := by
  intro s f hp hf hmax hok hok'
  have hlog : s.buz.timerLog ++ [.configure (dutyNs f) (periodNs f)] ++ [.enable] =
      s.buz.timerLog ++ [.configure (dutyNs f) (periodNs f), .enable] := List.append_assoc ..
  rw [exec_setfreqTone_of_holding hp, buzBody_of_configured hf hmax hok, buzEnable_of_ok hok', timerCall_of_ok hok',
    timerCall_buz_timerLog, hlog, timerCall_of_ok hok]
  rfl

/-- Settles O31: the step is the body, which ends at its range check. -/
theorem periodAboveTheBoundIsRejected : Obligations.PeriodAboveTheBoundIsRejected := by
  intro s f hp hf hmax
  rw [exec_setfreqTone_of_holding hp, buzBody_of_overflow hf hmax]
  rfl

/-- Settles O34: a failing call is the last one of its body, and it changes only the log, the mark and the sink's answers. -/
theorem timerFailureMarksAndStopsTheMachine : Obligations.TimerFailureMarksAndStopsTheMachine := by
  refine ⟨fun s f hp hfail hmax => ?_, fun s f hp hf hmax hok hfail => ?_, fun s => step_of_timerSinkFault⟩
  · refine ⟨_, exec_freqInstr_of_holding hp, ?_⟩
    rw [buzBody_of_first_call_fails hmax hfail]
    exact ⟨timerSinkFault_timerCall_of_fail hfail _, rfl, rfl, rfl⟩
  · refine ⟨_, exec_setfreqTone_of_holding hp, ?_⟩
    rw [buzBody_of_configured hf hmax hok, buzEnable_of_fail hfail]
    exact ⟨timerSinkFault_timerCall_of_fail hfail _, List.append_assoc .., rfl, rfl⟩

/-! ### The outcome `PeriodOverflow` -/

theorem caller_finishSetFreq_results (c : Nat) (e : OpOutcome) (s : State) :
    ((finishSetFreq c e s).caller c).results = (s.caller c).results ++ [e] := by
  simp [finishSetFreq]

/-- A body whose period is within the bound returns `OK`, or nothing when its timer sink fails (R165 to R167, R171). -/
theorem buzBody_results_of_le {s : State} {f : Freq} (hmax : periodNs f ≤ s.params.maxPeriodNs) (c : Nat) :
    ((buzBody c f s).caller c).results = (s.caller c).results ∨
    ((buzBody c f s).caller c).results = (s.caller c).results ++ [.ok] := by
  rcases buzBody_cases c f s with ⟨-, -, h⟩ | ⟨-, -, h⟩ | ⟨-, hover, -⟩ | ⟨-, -, -, h⟩ | ⟨-, -, -, h⟩
  · exact .inl (by rw [h, timerCall_caller])
  · exact .inr (by rw [h, caller_finishSetFreq_results, setTone_caller, timerCall_caller])
  · exact absurd hover (Nat.not_lt.mpr hmax)
  · exact .inl (by rw [h, timerCall_caller])
  · rcases buzEnable_cases c f (s.timerCall (.configure (dutyNs f) (periodNs f))) with ⟨-, h'⟩ | ⟨-, h'⟩
    · exact .inl (by rw [h, h', timerCall_caller, timerCall_caller])
    · exact .inr (by rw [h, h', caller_finishSetFreq_results, setTone_caller, timerCall_caller, timerCall_caller])

/-- Settles O33: no period is longer than a second, so that a bound of a second lets every body past its range check; and a
period is above `10^8` while `10^8 + 1` times the frequency is at most `10^9`. -/
theorem periodOverflowNeedsASmallBound : Obligations.PeriodOverflowNeedsASmallBound := by
  refine ⟨fun s t f hbound hp ht => ?_, fun f hf => ?_⟩
  · obtain rfl : buzBody s.cur f s = t := Host.Outcome.next.inj ((exec_setfreqTone_of_holding hp).symm.trans ht)
    rcases buzBody_results_of_le ((periodNs_le f).trans hbound) s.cur with h | h <;> simp [h]
  · rw [lt_periodNs_iff hf]
    omega

end Sys2Proof.Machine
end

section
/-!
SUPPORT. The text a host pseudo-operation builds: the decimal spelling of a pin, the colour of a pin, and the joined
entries.
-/

namespace Sys2Proof

/-! ### The decimal spelling -/

/-- The character code of a decimal digit (R71). -/
def digitByte (d : Nat) : Byte := BitVec.ofNat 8 (0x30 + d)

theorem decimalDigit_digitByte {d : Nat} (hd : d < 10) : decimalDigit? (digitByte d) = some d := by
  have htoNat : (digitByte d).toNat = 0x30 + d := Nat.mod_eq_of_lt (by omega)
  rw [decimalDigit?, htoNat, if_pos (by omega), Nat.add_sub_cancel_left]

/-- Mathlib lists a number's digits with the least significant first. -/
theorem decimalDigits_eq_reverse_digits {fuel n : Nat} (hn : n ≠ 0) (hfuel : n < fuel) :
    decimalDigits fuel n = (Nat.digits 10 n).reverse := by
  induction fuel generalizing n with
  | zero => exact absurd hfuel (Nat.not_lt_zero n)
  | succ fuel ih =>
    by_cases hlt : n < 10
    · rw [decimalDigits, if_pos hlt, Nat.digits_of_lt 10 n hn hlt, List.reverse_singleton]
    · have hsplit : Nat.digits 10 n = n % 10 :: Nat.digits 10 (n / 10) := Nat.digits_def' (by decide) (by omega)
      rw [decimalDigits, if_neg hlt, ih (by omega) (by omega), hsplit, List.reverse_cons]

theorem decimalText_of_ne_zero {n : Nat} (hn : n ≠ 0) :
    decimalText n = (Nat.digits 10 n).reverse.map digitByte := by
  rw [← decimalDigits_eq_reverse_digits hn (Nat.lt_succ_self n)]
  rfl

/-- Reading digits adds them below what has been read (R74). -/
theorem decimalFrom_map_digitByte (acc : Nat) (ds : List Nat) (hds : ∀ d ∈ ds, d < 10) :
    decimalFrom acc (ds.map digitByte) = some (ds.foldl (fun a d => 10 * a + d) acc) := by
  induction ds generalizing acc with
  | nil => rfl
  | cons d rest ih =>
    have hd : d < 10 := hds d List.mem_cons_self
    simp only [List.map_cons, decimalFrom, decimalDigit_digitByte hd, List.foldl_cons]
    exact ih _ fun x hx => hds x (List.mem_cons_of_mem d hx)

theorem decimalValue_of_ne_nil {bs : List Byte} (h : bs ≠ []) : decimalValue? bs = decimalFrom 0 bs := by
  cases bs with
  | nil => exact absurd rfl h
  | cons b rest => rfl

/-- A number's digits, the most significant first, spell that number. -/
theorem foldl_reverse_digits (n : Nat) : (Nat.digits 10 n).reverse.foldl (fun a d => 10 * a + d) 0 = n := by
  calc (Nat.digits 10 n).reverse.foldl (fun a d => 10 * a + d) 0
      = (Nat.digits 10 n).foldr (fun d a => d + 10 * a) 0 := by simp only [List.foldl_reverse, Nat.add_comm]
    _ = n := (Nat.ofDigits_eq_foldr 10 _).symm.trans (Nat.ofDigits_digits 10 n)

theorem decimalValue_decimalText (n : Nat) : decimalValue? (decimalText n) = some n := by
  by_cases hn : n = 0
  · rw [hn]
    rfl
  · have hdigits : ∀ d ∈ (Nat.digits 10 n).reverse, d < 10 := fun d hd =>
      Nat.digits_lt_base (by decide) (List.mem_reverse.mp hd)
    have hne : (Nat.digits 10 n).reverse.map digitByte ≠ [] := by simpa [Nat.digits_ne_nil_iff_ne_zero] using hn
    rw [decimalText_of_ne_zero hn, decimalValue_of_ne_nil hne, decimalFrom_map_digitByte 0 _ hdigits,
      foldl_reverse_digits]

/-- The first byte spells the most significant digit, which is not 0 (R193). -/
theorem head_decimalText_ne {n : Nat} (hn : n ≠ 0) : (decimalText n).head? ≠ some 0x30 := by
  have hne : Nat.digits 10 n ≠ [] := Nat.digits_ne_nil_iff_ne_zero.mpr hn
  have hlt : (Nat.digits 10 n).getLast hne < 10 := Nat.digits_lt_base (by decide) (List.getLast_mem hne)
  rw [decimalText_of_ne_zero hn, List.head?_map, List.head?_reverse, List.getLast?_eq_some_getLast hne]
  intro hzero
  have hbyte : digitByte ((Nat.digits 10 n).getLast hne) = 0x30 := Option.some.inj hzero
  have hdigit := decimalDigit_digitByte hlt
  rw [hbyte] at hdigit
  exact Nat.getLast_digit_ne_zero 10 hn (Option.some.inj hdigit).symm

/-- Settles O12: the spelling is the number's digits in base 10, which read back as the number and have no leading 0. -/
theorem decimalSpellingReadsBack : Obligations.DecimalSpellingReadsBack :=
  fun n => ⟨decimalValue_decimalText n, head_decimalText_ne⟩

end Sys2Proof

namespace Sys2Proof.Machine

/-! ### The colour of a pin -/

/-- Settles O35: with a colour for each pin the position is not cut, and a single colour is the first one (R192). -/
theorem colourSelectionIsOneRule : Obligations.ColourSelectionIsOneRule := by
  intro colors n j _ hj
  by_cases hlen : colors.length = n
  · have hmin : min j (colors.length - 1) = j := by omega
    rw [colourAt, if_pos (.inr hlen), if_pos hlen, hmin]
  · rw [if_neg hlen, colourAt]
    split
    · have hmin : min j (colors.length - 1) = 0 := by omega
      rw [hmin]
    · rfl

theorem colourAt_of_length_eq {colors : List (List Byte)} {n j : Nat} (hlen : colors.length = n) (hj : j < n) :
    colourAt colors n j = colors[j] := by
  have hne : colors ≠ [] := List.ne_nil_of_length_pos (by omega)
  rw [colourSelectionIsOneRule colors n j hne hj, if_pos hlen, List.getD_eq_getElem]

@[simp] theorem colourAt_singleton (colour : List Byte) (n j : Nat) : colourAt [colour] n j = colour := by
  simp [colourAt]

/-! ### The built text -/

theorem buildEntries_eq_mapIdx (colors : List (List Byte)) (n : Nat) (pins : List Nat) (j : Nat) :
    buildEntries colors n pins j = pins.mapIdx fun k pin => entryText pin (colourAt colors n (j + k)) := by
  induction pins generalizing j with
  | nil => rfl
  | cons pin rest ih => simp [buildEntries, ih, List.mapIdx_cons, Nat.add_assoc, Nat.add_comm 1]

theorem buildText_eq_mapIdx (pins : List Nat) (colors : List (List Byte)) :
    buildText pins colors =
      joinCommas (pins.mapIdx fun k pin => entryText pin (colourAt colors pins.length k)) := by
  simp [buildText, buildEntries_eq_mapIdx]

/-- Settles O37: both texts are the joined entries of the pins, so that it is enough to compare them entry by entry,
where the selected colour decides (R192, R193). -/
theorem lightOnBuildsTheCanonicalText : Obligations.LightOnBuildsTheCanonicalText := by
  intro pins colors
  refine ⟨fun hlen => ?_, fun v => ?_⟩ <;> rw [buildText_eq_mapIdx, encodeText] <;> congr 1
  · refine List.ext_getElem (by simp [hlen]) fun k hk _ => ?_
    have hpin : k < pins.length := by simpa using hk
    simp [colourAt_of_length_eq, hlen, hpin]
  · refine List.ext_getElem (by simp) fun k _ _ => ?_
    simp

end Sys2Proof.Machine
end

section
/-!
SUPPORT. `lightOn` and `lightOff` step by step: the argument checks, the APPLY they go on as, and the all-black text.
-/

namespace Sys2Proof.Machine

/-! ### The argument checks -/

theorem badLightArgs_iff (p : Params) (pins : List Nat) (colors : List (List Byte)) :
    badLightArgs p pins colors = true ↔
      pins = [] ∨ 7 < pins.length ∨ colors = [] ∨ p.cmdMaxLen < (buildText pins colors).length := by
  simp [badLightArgs, or_assoc]

theorem badLightArgs_eq_false_iff (p : Params) (pins : List Nat) (colors : List (List Byte)) :
    badLightArgs p pins colors = false ↔
      pins ≠ [] ∧ pins.length ≤ 7 ∧ colors ≠ [] ∧ (buildText pins colors).length ≤ p.cmdMaxLen := by
  rw [← Bool.not_eq_true, badLightArgs_iff]
  simp only [not_or, Nat.not_lt, ne_eq]

/-- Past its checks, and in every phase that comes after them, `lightOn` is the APPLY of the built text (R190, R195). -/
theorem exec_lightOn_of_good {s : State} {pins : List Nat} {colors : List (List Byte)}
    (h : s.phase s.cur ≠ .idle ∨ badLightArgs s.params pins colors = false) :
    exec (.lightOn pins colors) s = exec (.apply (buildText pins colors)) s := by
  rcases lightOnStep_cases s.cur pins colors s with ⟨hidle, hbad, -⟩ | ⟨-, happly⟩
  · rcases h with hbusy | hgood
    · exact absurd hidle hbusy
    · exact absurd (hbad.symm.trans hgood) nofun
  · exact congrArg Host.Outcome.next happly

theorem exec_lightOn_of_bad {s : State} {pins : List Nat} {colors : List (List Byte)} (hidle : s.phase s.cur = .idle)
    (hbad : badLightArgs s.params pins colors = true) :
    exec (.lightOn pins colors) s = .next (s.endOp s.cur .argError) :=
  congrArg Host.Outcome.next (if_pos ⟨hidle, hbad⟩)

/-- Settles O36: the model's check is the rule's list of cases, and what passes it is an APPLY (R190, R191). -/
theorem lightOnChecksItsArguments : Obligations.LightOnChecksItsArguments := by
  intro s pins colors hidle
  exact ⟨fun hbad => exec_lightOn_of_bad hidle ((badLightArgs_iff ..).mpr hbad),
    fun hpins hseven hcolors hfits =>
      exec_lightOn_of_good (.inr ((badLightArgs_eq_false_iff ..).mpr ⟨hpins, hseven, hcolors, hfits⟩))⟩

/-! ### The APPLY in progress -/

/-- Once LED_ACCEPT is past, the text offered does not count (R60; log 16). -/
theorem exec_apply_text_of_not_idle {s : State} (h : s.phase s.cur ≠ .idle) (text text' : List Byte) :
    exec (.apply text) s = exec (.apply text') s := by
  cases hp : s.phase s.cur with
  | idle => exact absurd hp h
  | ledWaiting buf => rw [exec_apply_of_waiting hp, exec_apply_of_waiting hp]
  | ledHolding buf => rw [exec_apply_of_holding hp, exec_apply_of_holding hp]
  | buzHolding f => simp [exec, execApply, applyStep, hp]

theorem exec_lightOn_of_not_idle {s : State} (h : s.phase s.cur ≠ .idle) (pins : List Nat) (colors : List (List Byte))
    (text : List Byte) : exec (.lightOn pins colors) s = exec (.apply text) s :=
  (exec_lightOn_of_good (.inl h)).trans (exec_apply_text_of_not_idle h _ text)

/-- What LED_BODY on the text `buf` leaves, whether or not the text decodes (R141, R144, R148). -/
structure BodyRan (c : Nat) (buf : List Byte) (s t : State) : Prop where
  lights : t.led.lights = appliedLights s.params s.led.lights buf
  sent : t.led.xmitLog = s.led.xmitLog ++
    (match (parseText s.params buf).2 with
    | some _ => []
    | none => [{ frame := encodeFrame (appliedLights s.params s.led.lights buf), answer := s.transportAnswer }])
  lock : t.led.lock = .free
  idle : t.phase c = .idle
  buz : t.buz = s.buz
  results : (t.caller c).results = (s.caller c).results ++
    [match (parseText s.params buf).2 with
    | some e => e.outcome
    | none => if s.transportAnswer = .fail then .transportError else .ok]

theorem bodyRan_ledBody (c : Nat) (buf : List Byte) (s : State) : BodyRan c buf s (ledBody c buf s) := by
  cases hdecode : (parseText s.params buf).2 with
  | some e =>
    rw [ledBody_of_decode_error c buf s hdecode]
    constructor <;> simp [hdecode]
  | none =>
    rw [ledBody_of_decoded c buf s hdecode]
    constructor <;> simp [hdecode]

/-- Taking the lock changes nothing that the body reads or returns to, so the body may be told from before the wait. -/
theorem bodyRan_accept_acquire_ledBody (c : Nat) (buf : List Byte) (s : State) :
    BodyRan c buf s
      (ledBody c buf (((s.setPhase c (.ledWaiting buf)).setLedLock (.held c)).setPhase c (.ledHolding buf))) :=
  have body := bodyRan_ledBody c buf
    (((s.setPhase c (.ledWaiting buf)).setLedLock (.held c)).setPhase c (.ledHolding buf))
  { body with results := body.results.trans (congrArg (· ++ _) (by simp)) }

theorem exec_lightOn_of_waiting {s : State} {buf : List Byte} (h : s.phase s.cur = .ledWaiting buf)
    (hfree : s.led.lock = .free) (pins : List Nat) (colors : List (List Byte)) :
    exec (.lightOn pins colors) s = .next ((s.setLedLock (.held s.cur)).setPhase s.cur (.ledHolding buf)) :=
  (exec_lightOn_of_not_idle (by simp [h]) pins colors buf).trans ((ledAcquireTakesAFreeLock s buf buf h).1 hfree)

theorem exec_lightOn_of_holding {s : State} {buf : List Byte} (h : s.phase s.cur = .ledHolding buf) (pins : List Nat)
    (colors : List (List Byte)) : exec (.lightOn pins colors) s = .next (ledBody s.cur buf s) :=
  (exec_lightOn_of_not_idle (by simp [h]) pins colors buf).trans (exec_apply_of_holding h)

/-- Settles O38: the first step is LED_ACCEPT of the built text, the next two are its APPLY's acquire and body. -/
theorem lightOnRunsItsApply : Obligations.LightOnRunsItsApply := by
  intro s pins colors
  refine ⟨fun hidle hopen hfree hgood => ?_, fun hbusy text => exec_lightOn_of_not_idle hbusy pins colors text⟩
  obtain ⟨-, -, -, hfits⟩ := (badLightArgs_eq_false_iff ..).mp hgood
  have haccept := (exec_lightOn_of_good (.inr hgood)).trans ((ledAcceptChecksTheLength s _ hidle hopen).2 hfits)
  have body := bodyRan_accept_acquire_ledBody s.cur (buildText pins colors) s
  exact ⟨_, _, _, haccept, phase_setPhase_same ..,
    exec_lightOn_of_waiting (phase_setPhase_same ..) hfree pins colors, rfl,
    exec_lightOn_of_holding (phase_setPhase_same ..) pins colors,
    body.lights, body.sent, body.lock, body.idle, body.buz, body.results⟩

/-! ### All lights black -/

/-- Writing one colour to a list of lights leaves it in each of these and keeps the others (R111). -/
theorem writeLights_map_getElem (lights : LightArray) (is : List LightIndex) (v : Rgb) (j : LightIndex) :
    (writeLights lights (is.map fun i => (i, v)))[j] = if j ∈ is then v else lights[j] := by
  induction is generalizing lights with
  | nil => rfl
  | cons i rest ih =>
    rw [List.map_cons, writeLights, ih]
    by_cases hi : i = j
    · simp [hi]
    · have hother : (lights.set i v)[j] = lights[j] := Vector.getElem_set_ne _ _ (Fin.val_ne_of_ne hi)
      simp [hother, Ne.symm hi]

/-- The entries of `lightOff()`: every light, black (R194). -/
def blackEntries : List (LightIndex × Rgb) := (List.finRange 7).map fun i => (i, 0x000000)

theorem writeLights_blackEntries (lights : LightArray) :
    writeLights lights blackEntries = Vector.replicate 7 0x000000 := by
  refine Vector.ext fun j hj => ?_
  rw [Vector.getElem_replicate]
  exact (writeLights_map_getElem lights _ _ ⟨j, hj⟩).trans (if_pos (List.mem_finRange _))

/-- The text `lightOff()` builds is canonical (R193, R194). -/
theorem buildText_allPins_blackColours : buildText allPins blackColours = encodeText blackEntries :=
  (lightOnBuildsTheCanonicalText (List.finRange 7) []).2 0x000000

/-- Seven entries of 8 bytes and the six commas between them (R194). -/
theorem length_buildText_allPins_blackColours : (buildText allPins blackColours).length = 62 :=
  (congrArg List.length buildText_allPins_blackColours).trans (length_encodeText_cons ..)

theorem parseText_allPins_blackColours {p : Params} (hp : 1 ≤ p.indexMaxChars) :
    parseText p (buildText allPins blackColours) = (blackEntries, none) := by
  rw [buildText_allPins_blackColours]
  exact canonicalTextDecodesToItsEntries p blackEntries (by decide) hp

theorem appliedLights_allPins_blackColours {p : Params} (hp : 1 ≤ p.indexMaxChars) (lights : LightArray) :
    appliedLights p lights (buildText allPins blackColours) = Vector.replicate 7 0x000000 := by
  have hparse := parseText_allPins_blackColours hp
  rw [appliedLights_of_decoded (by rw [hparse]), hparse, writeLights_blackEntries]

/-- `lightOff()` fails its checks only by its length (R191). -/
theorem badLightArgs_lightOff {p : Params} (h : 62 ≤ p.cmdMaxLen) : badLightArgs p allPins blackColours = false :=
  (badLightArgs_eq_false_iff ..).mpr
    ⟨by decide, by decide, by decide, length_buildText_allPins_blackColours.trans_le h⟩

/-- Settles O39: `lightOff()` is one `lightOn`, whose checks come down to the length of its text and whose text decodes
to a black entry for each light. -/
theorem lightOffBlackensEveryLight : Obligations.LightOffBlackensEveryLight := by
  intro s
  refine ⟨rfl, fun hidle => ⟨fun hshort => ?_, fun hroom hclosed => ?_, fun hroom hopen hfree hmax => ?_⟩⟩
  · refine (lightOnChecksItsArguments s allPins blackColours hidle).1 (.inr (.inr (.inr ?_)))
    rw [length_buildText_allPins_blackColours]
    exact hshort
  · exact (closedUnitAnswersDeviceUnavailable s [] allPins blackColours hidle hclosed).2 (badLightArgs_lightOff hroom)
  · obtain ⟨t, u, v, haccept, -, hacquire, -, hbody, hlights, hsent, hlock, hphase, hbuz, -⟩ :=
      (lightOnRunsItsApply s allPins blackColours).1 hidle hopen hfree (badLightArgs_lightOff hroom)
    have hblack := appliedLights_allPins_blackColours hmax s.led.lights
    rw [parseText_allPins_blackColours hmax, hblack] at hsent
    exact ⟨t, u, v, haccept, hacquire, hbody, hlights.trans hblack, hsent, hlock, hphase, hbuz⟩

end Sys2Proof.Machine
end

section
/-!
SUPPORT. The end of an operation, the end of a run, and what no step undoes: the marks and the parameters.
-/

namespace Sys2Proof.Machine

/-- Settles O16: the return of an outcome is one write of its caller's entry. -/
theorem endingAnOperationReturnsItsOutcome : Obligations.EndingAnOperationReturnsItsOutcome := by
  intro s c e
  have hown := caller_endOp_same s c e
  exact ⟨phase_endOp_same s c e, by rw [hown], by rw [hown], fun d => caller_endOp_other s c d e, rfl⟩

/-! ### The end of a run -/

/-- The turn of an idle caller with nothing to issue only notes the caller (R215). -/
theorem turn_of_nothing_to_issue {s : State} {c : Nat} (hidle : s.phase c = .idle) (hops : (s.caller c).ops = []) :
    turn c s = .next { s with cur := c } := by
  simp [turn, hidle, issue, hops]

/-- Settles O45: in a final machine the caller has nothing to issue and is in no wait (R206, R216). -/
theorem aFinalMachineStartsNothing : Obligations.AFinalMachineStartsNothing := by
  intro s c rest ⟨hnoMark, hrest⟩
  obtain ⟨hidle, hops⟩ := hrest c
  have hmark : s.marks.timerSinkFault = false := congrArg Marks.timerSinkFault hnoMark
  refine ⟨fun hsched => ?_, fun hsched => ?_⟩
  · exact (step_turn hmark hsched).trans (turn_of_nothing_to_issue hidle hops)
  · exact (interruptionEndsOnlyAWait s c rest hmark hsched).2 (by simp [hidle])

/-! ### The parameters -/

theorem params_keptByActs (p : Params) : KeptByActs (fun s => s.params = p) where
  bookkeeping _ _ _ _ hs := hs
  issued _ _ _ hs := hs
  led u c a _ hs := (a.frame c u).params.trans hs
  buz u c a _ hs := (a.frame c u).params.trans hs
  close _ _ _ hs := hs

/-! ### The refusal marks -/

/-- From the marks `k` to the marks `l` neither refusal mark is cleared (R210). -/
structure Marks.RefusalsStay (k l : Marks) : Prop where
  wordSize : k.refusedWordSize = true → l.refusedWordSize = true
  closeBusy : k.refusedCloseBusy = true → l.refusedCloseBusy = true

theorem Marks.RefusalsStay.of_eq {k l : Marks} (h : l = k) : k.RefusalsStay l := h ▸ ⟨id, id⟩

/-- No instruction touches a refusal mark: a buzzer instruction may set `TimerSinkFault` alone (R171, R210). -/
theorem exec_refusalsStay {i : Instr} {s t : State} (ht : exec i s = .next t) : s.marks.RefusalsStay t.marks := by
  cases hbuz : i.isBuzzer with
  | false =>
    obtain ⟨u, hu, -, -, hmarks, -⟩ := ledInstructionsFrame i s hbuz
    obtain rfl : u = t := Host.Outcome.next.inj (hu.symm.trans ht)
    exact .of_eq hmarks
  | true =>
    obtain ⟨u, hu, -, -, -, -, -, -, -, hword, hclose, -⟩ := buzzerInstructionsFrame i s hbuz
    obtain rfl : u = t := Host.Outcome.next.inj (hu.symm.trans ht)
    exact ⟨hword.trans, hclose.trans⟩

/-- A refused write sets the mark of its refusal and leaves the other (R55). -/
theorem issue_refusalsStay {c : Nat} {s t : State} (ht : issue c s = .next t) : s.marks.RefusalsStay t.marks := by
  rcases issue_cases c s with ⟨-, h⟩ | ⟨op, rest, i, -, -, h⟩ | ⟨op, rest, -, -, h⟩ <;> rw [h] at ht
  · cases ht
    exact .of_eq rfl
  · exact exec_refusalsStay (s := s.setCaller c _) ht
  · cases ht
    exact ⟨fun _ => rfl, id⟩

theorem turn_refusalsStay {c : Nat} {s t : State} (ht : turn c s = .next t) : s.marks.RefusalsStay t.marks := by
  rcases turn_cases c s with ⟨-, h⟩ | ⟨buf, -, h⟩ | ⟨f, -, h⟩ <;> rw [h] at ht
  · exact issue_refusalsStay (s := { s with cur := c }) ht
  · exact exec_refusalsStay (s := { s with cur := c }) ht
  · exact exec_refusalsStay (s := { s with cur := c }) ht

/-- A refused close sets the mark of its refusal and leaves the other (R232). -/
theorem closeBlock_refusalsStay (s : State) : s.marks.RefusalsStay (closeBlock s).marks := by
  rcases closeBlock_cases s with ⟨-, h⟩ | ⟨-, h⟩ <;> rw [h]
  · exact .of_eq rfl
  · exact ⟨id, fun _ => rfl⟩

theorem ledInterrupt_refusalsStay (c : Nat) (s : State) : s.marks.RefusalsStay (ledInterrupt c s).marks := by
  obtain ⟨a, -, ha⟩ := ledInterrupt_act c s
  rw [ha]
  exact .of_eq (a.frame c s).marks

/-- Only an open clears a mark (R210; log 13). -/
theorem takeEvent_refusalsStay {e : Event} {s t : State} (hopen : e ≠ .openBlock) (ht : takeEvent e s = .next t) :
    s.marks.RefusalsStay t.marks := by
  cases e with
  | turn c => exact turn_refusalsStay ht
  | interrupt c =>
    cases ht
    exact ledInterrupt_refusalsStay c s
  | openBlock => exact absurd rfl hopen
  | closeBlock =>
    cases ht
    exact closeBlock_refusalsStay s

theorem step_refusalsStay {s t : State} (hopen : s.sched.head? ≠ some .openBlock) (ht : step s = .next t) :
    s.marks.RefusalsStay t.marks := by
  obtain ⟨-, ⟨-, rfl⟩ | ⟨e, rest, hsched, ht⟩⟩ := step_next ht
  · exact .of_eq rfl
  · have he : e ≠ .openBlock := fun he => hopen (by simp [hsched, he])
    exact takeEvent_refusalsStay (s := { s with sched := rest }) he ht

/-- Settles O52: every part of a step keeps the parameters, all but an open keep the refusal marks, and a machine that
carries `TimerSinkFault` answers no next state (R171; log 9). -/
theorem marksAndParametersStay : Obligations.MarksAndParametersStay := by
  intro s t ht
  obtain ⟨hfault, -⟩ := step_next ht
  refine ⟨(params_keptByActs s.params).step (fun _ _ _ hu => hu) rfl ht, fun hopen => ?_⟩
  have hrefusals := step_refusalsStay hopen ht
  exact ⟨fun hset => absurd (hfault.symm.trans hset) nofun, hrefusals.wordSize, hrefusals.closeBusy⟩

end Sys2Proof.Machine
end

section
/-!
SUPPORT. Reset, open and close of the block: the two host events as steps of the machine, and what they leave of the units and
the callers.
-/

namespace Sys2Proof.Machine

/-! ### Reset -/

/-- The light registers as open creates them are black (R24). -/
theorem opened_light (i : LightIndex) : LedUnit.opened.lights[i] = 0x000000 := Vector.getElem_replicate ..

/-- Settles O60: every value is read off the two units as open creates them; the caller table is empty. -/
theorem resetIsTheBlockJustOpened : Obligations.ResetIsTheBlockJustOpened :=
  ⟨rfl, rfl, opened_light, rfl, rfl, rfl, rfl, rfl, rfl, reset_phase, rfl⟩

/-! ### The first event of a machine without the mark -/

/-- A machine without `TimerSinkFault` takes its first event on the machine without it (R210, R215). -/
theorem step_event {s : State} {e : Event} {rest : List Event} (hmark : s.marks.timerSinkFault = false)
    (hsched : s.sched = e :: rest) : step s = takeEvent e { s with sched := rest } := by
  simp [step, hmark, advance, hsched]

/-! ### Open -/

theorem caller_openUnits {s : State} (hwf : CallersWf s.callers) (c : Nat) :
    s.openUnits.caller c = { s.caller c with phase := .idle } :=
  readCaller_idleAll hwf c

/-- Open leaves each caller idle, with its operations and outcomes as before (R230; log 13). -/
theorem openUnits_idles {s : State} (hwf : CallersWf s.callers) (c : Nat) :
    s.openUnits.phase c = .idle ∧ (s.openUnits.caller c).ops = (s.caller c).ops ∧
      (s.openUnits.caller c).results = (s.caller c).results := by
  simp [State.phase, caller_openUnits hwf]

/-- Settles O43: on a closed block the open goes by the environment's answer, and creates both units or closes both. -/
theorem openCreatesBothUnitsOrNeither : Obligations.OpenCreatesBothUnitsOrNeither := by
  intro s rest hwf hmark hsched hled hbuz
  rw [step_event hmark hsched]
  rcases openBlock_cases { s with sched := rest } with ⟨hopen, -⟩ | ⟨-, -, hok, h⟩ | ⟨-, -, hfail, h⟩
  case inl => simp [hled, hbuz] at hopen
  case inr.inl =>
    exact ⟨fun _ => ⟨_, h, rfl, rfl, rfl, rfl, rfl, openUnits_idles hwf⟩,
      fun hfail => absurd (hok.symm.trans hfail) nofun⟩
  case inr.inr =>
    exact ⟨fun hok => absurd (hok.symm.trans hfail) nofun, fun _ => ⟨_, h, rfl, rfl, rfl, rfl, rfl, rfl⟩⟩

/-! ### Close -/

/-- With every caller idle a close is granted (R232). -/
theorem closeBlock_of_allIdle {s : State} (h : s.allIdle = true) : closeBlock s = s.closeUnits := if_pos h

/-- Closing units that are closed changes nothing: their state is gone, their logs stay (R34; log 14). -/
theorem closeUnits_closeUnits (s : State) : s.closeUnits.closeUnits = s.closeUnits := rfl

/-- A granted close leaves a block on which a close changes nothing: the callers are as they were, so it is granted again
(R232). -/
theorem closeBlock_closeUnits {s : State} (h : s.allIdle = true) : closeBlock s.closeUnits = s.closeUnits :=
  (closeBlock_of_allIdle (s := s.closeUnits) h).trans (closeUnits_closeUnits s)

/-- Settles O44: the close goes by whether every caller is idle, which the machine reads off its caller table. -/
theorem closeNeedsEveryCallerIdle : Obligations.CloseNeedsEveryCallerIdle := by
  intro s rest hwf hmark hsched
  rw [step_event hmark hsched]
  refine ⟨fun hidle => ?_, fun c hbusy => ?_⟩
  · have hall : ({ s with sched := rest } : State).allIdle = true := allIdle_of_forall hwf hidle
    exact ⟨_, congrArg Host.Outcome.next (closeBlock_of_allIdle hall), rfl, rfl, rfl, rfl, closeBlock_closeUnits hall⟩
  · rcases closeBlock_cases { s with sched := rest } with ⟨hall, -⟩ | ⟨-, h⟩
    · exact absurd (allIdle_phase hall c) hbusy
    · exact congrArg Host.Outcome.next h

end Sys2Proof.Machine
end
